-- ==== Sys2Proof/Word.lean ====
section
/-! DEFINITION. The two data widths of the machine: 8-bit bytes and 32-bit words (spec/20_memory.md R35, spec/10_state.md R26). -/

namespace Sys2Proof

/-- An 8-bit byte, the smallest addressable unit (20_memory.md R35). -/
abbrev Byte := BitVec 8

/-- A 32-bit value: an address, the program counter, an instruction word (10_state.md R26, 00_scope.md R10). -/
abbrev Word := BitVec 32

end Sys2Proof
end

