-- ==== Sys2Proof/Config.lean ====
section
/-! DEFINITION. What an implementation fixes (R5, R6, R8) and the values the spec leaves open (R7, R80, R77): the free values
are drawn from the one opaque constant `Config.freshDraws`. -/

namespace Sys2Proof

/-- The instruction-set state `ISET` (10_state.md R13). -/
inductive ISet where
  | a32
  | t32
deriving DecidableEq, Repr, Inhabited

/-- The process state. `el`, the IT state and the flags are named by 10_state.md R13, R14, R22 and R23; `iset` is the T bit of
`PSTATE` (R13, K4). `m`, `e`, `a`, `i`, `f` are named only by the general knowledge of 60_exceptions.md R81 and
70_reset_and_hazards.md R94 (log 8). -/
structure Pstate where
  /-- `PSTATE.EL` (R14): '00' EL0, '01' EL1, '10' EL2, '11' EL3. All four values occur. -/
  el : BitVec 2
  /-- `ISET` (R13). -/
  iset : ISet
  /-- `IN_IT_BLOCK`, the result of `InITBlock()` (R22). -/
  inItBlock : Bool
  /-- Condition flags (R23). -/
  n : BitVec 1
  z : BitVec 1
  c : BitVec 1
  v : BitVec 1
  /-- `PSTATE.M`, the mode number (R81). -/
  m : BitVec 5
  /-- `PSTATE.E`, the data byte order (R36, R81). -/
  e : BitVec 1
  /-- Masks of asynchronous aborts, IRQ and FIQ (R81). -/
  a : BitVec 1
  i : BitVec 1
  f : BitVec 1
deriving DecidableEq, Repr, Inhabited

/-- `EL0 = '00'` (R14). -/
@[simp] abbrev Config.el0 : BitVec 2 := 0b00#2
/-- `EL1 = '01'` (R14; PRESUMED, K5; log 14). -/
@[simp] abbrev Config.el1 : BitVec 2 := 0b01#2
/-- `EL2 = '10'` (R14). -/
@[simp] abbrev Config.el2 : BitVec 2 := 0b10#2
/-- `EL3 = '11'` (R14). -/
@[simp] abbrev Config.el3 : BitVec 2 := 0b11#2

/-- What an implementation fixes for a run (10_state.md R33 `Config`), plus the model's switch for `HVC_ENTRY`. -/
structure Impl where
  /-- `HAVE_EL2` (00_scope.md R5). -/
  haveEl2 : Bool
  /-- `HAVE_EL3`, the result of `HaveEL(EL3)` (00_scope.md R6, 10_state.md R25). -/
  haveEl3 : Bool
  /-- The named parameter `HVC_ENTRY` (R80): true, the implementation enters Hyp mode as 60_exceptions.md R81 describes;
  false, nothing is known of its entry. DESIGN CHOICE, safe: no claim holds of one value without saying so (log 8). -/
  usualHvcEntry : Bool
deriving DecidableEq, Repr, Inhabited

/-- `CU_A1_COND`: the permitted behaviours of A1 with `cond != '1110'` (00_scope.md R7, 60_exceptions.md R79). -/
inductive CuA1Cond where
  | undef
  | nop
  | uncond
  | cond
deriving DecidableEq, Repr, Inhabited

/-- `CU_HYP_HCE0`: the permitted behaviours of HVC in Hyp mode with EL3 using AArch32 and `SCR.HCE` 0 (R7, R67). -/
inductive CuHypHce0 where
  | undef
  | nop
deriving DecidableEq, Repr, Inhabited

/-- What an exception entry leaves in the state of which the spec asserts nothing afterwards (10_state.md R30): the new `pc`,
`PSTATE`, the banked registers as then visible, the return address, the saved program status, the result of `EL2Enabled()`
(not among the inputs R30 says are never written), the system registers R30 does not say are never written either, and the bits
of `HSR` other than EC and the immediate. -/
structure Entry where
  pc : Word
  pstate : Pstate
  gpr : Vector Word 15
  elrHyp : Word
  spsrHyp : Pstate
  el2Enabled : Bool
  hvbar : Word
  hsctlrTe : BitVec 1
  hsctlrEe : BitVec 1
  scrEa : BitVec 1
  scrIrq : BitVec 1
  scrFiq : BitVec 1
  hsrOther : BitVec 10
deriving DecidableEq, Repr, Inhabited

/-- The free values of one execution (10_state.md R33 `Draws`, and the open entries of R77 and R80). -/
structure Draws where
  a1Cond : CuA1Cond
  hypHce0 : CuHypHce0
  entry : Entry
deriving DecidableEq, Repr, Inhabited

/-- The free values of the execution numbered `tick`. It has no body: nothing is known of any value, so the choice may vary from
one execution of the instruction to the next (00_scope.md R7, decisions D8 to D11; logs 7, 9, 10). -/
opaque Config.freshDraws : Nat → Draws

end Sys2Proof
end

