-- ==== Sys2Proof/Syntax.lean ====
section
/-! DEFINITION. The instructions of spec/opcode_table.json: HVC in its two encodings (30_encoding.md R46), with the fields the
decoder of R51 yields. -/

namespace Sys2Proof

/-- One constructor per row of the opcode table. -/
inductive Instr where
  /-- `HVC_A1` (R47, R61): A32, `imm16 = imm12:imm4`. -/
  | hvcA1 (cond : BitVec 4) (imm12 : BitVec 12) (imm4 : BitVec 4)
  /-- `HVC_T1` (R48, R63): T32, `imm16 = imm4:imm12`. -/
  | hvcT1 (imm4 : BitVec 4) (imm12 : BitVec 12)
deriving DecidableEq, Repr

/-- The instruction set an encoding belongs to (R46). -/
def Instr.iset : Instr → ISet
  | .hvcA1 _ _ _ => .a32
  | .hvcT1 _ _ => .t32

end Sys2Proof
end

