-- ==== Sys2Proof/Machine/State.lean ====
section
/-! DEFINITION. The state of the machine (10_state.md R13 and R33), its reset value and the reasons a step can stop. -/

namespace Sys2Proof.Machine

/-- An event an instruction raises (60_exceptions.md R73). -/
inductive Event where
  /-- `raise HypervisorCall(imm16)` (R74). -/
  | hypervisorCall (imm16 : BitVec 16)
  /-- `raise Undefined()` (R76). -/
  | undefined
deriving DecidableEq, Repr

/-- `HSR` (10_state.md R21): the exception class, the captured immediate and the bits the spec says nothing of. The widths 6 and
10 are PRESUMED (K10; log 13). -/
structure Hsr where
  ec : BitVec 6
  imm16 : BitVec 16
  other : BitVec 10
deriving DecidableEq, Repr

/-- The state. Field by field in INVENTORY.md under State. -/
structure State where
  /-- The implementation's parameters, fixed for a run (R5, R6, R33 `Config`). -/
  impl : Impl
  /-- The program counter (R26). -/
  pc : Word
  /-- The process state: `EL`, `ISET`, `IN_IT_BLOCK`, the flags (R13), and what R81 names. -/
  pstate : Pstate
  /-- `EL2_ENABLED` (R16). -/
  el2Enabled : Bool
  /-- `EL2_A32` and `EL3_A32` (R17). -/
  el2A32 : Bool
  el3A32 : Bool
  /-- `SCR.HCE` and `SCR_EL3.HCE` (R18). -/
  scrHce : BitVec 1
  scrEl3Hce : BitVec 1
  /-- `HCR.HCD` and `HCR_EL2.HCD` (R20). -/
  hcrHcd : BitVec 1
  hcrEl2Hcd : BitVec 1
  /-- `HSR` (R21). -/
  hsr : Hsr
  /-- R0 to R14 as the current mode sees them (R27; log 16). -/
  gpr : Vector Word 15
  /-- `ELR_hyp`, `SPSR_hyp`, `HVBAR`, `HSCTLR.TE`, `HSCTLR.EE`, `SCR.EA`, `SCR.IRQ`, `SCR.FIQ` (R39, R81; log 8). -/
  elrHyp : Word
  spsrHyp : Pstate
  hvbar : Word
  hsctlrTe : BitVec 1
  hsctlrEe : BitVec 1
  scrEa : BitVec 1
  scrIrq : BitVec 1
  scrFiq : BitVec 1
  /-- The program text, as bytes by address (R35, R44), in the form `Memory.wf`. -/
  mem : List Host.Cell
  /-- The model's own: the event the last instruction raised (R80: the step's result is the pair of the `HSR` write and the
  event). `none` after "executes as NOP" and at launch (log 6). -/
  raised : Option Event
  /-- The model's own: the free values the next execution uses (R33 `Draws`; logs 7, 9, 10). -/
  draws : Draws
  /-- The model's own: how many executions have taken free values (log 10). -/
  tick : Nat
deriving DecidableEq, Repr

/-- The canonical form of memory: addresses strictly rise and lie in the 32-bit space (R35). An unlisted address has no value,
so no entry can equal what one reads as (log 2). -/
abbrev Memory.wf (m : List Host.Cell) : Prop :=
  m.Pairwise (fun x y => x.1 < y.1) ∧ ∀ c ∈ m, c.1 < 2 ^ 32

/-- `wellformed(Config, State)` (10_state.md R33: `HAVE_EL2 = false` implies `EL2_ENABLED = false`), with memory in its
canonical form. R31: no other relation among the inputs is assumed. -/
abbrev State.wf (s : State) : Prop :=
  (s.impl.haveEl2 = false → s.el2Enabled = false) ∧ Memory.wf s.mem

/-- Every field 0. The value `SPSR_hyp` holds at reset (log 1). -/
def zeroPstate : Pstate :=
  { el := 0#2, iset := .a32, inItBlock := false, n := 0#1, z := 0#1, c := 0#1, v := 0#1, m := 0#5, e := 0#1, a := 0#1, i := 0#1,
    f := 0#1 }

/-- The state right after reset. The spec gives no reset value (R32, R93, R94); these are the model's (PRESUMED and DESIGN
CHOICE, unsafe; log 1): an implementation with EL2 and no EL3 that leaves reset in Hyp mode with exceptions masked. No program
text is listed (log 2). The free values are drawn like any other. -/
def State.reset : State :=
  { impl := { haveEl2 := true, haveEl3 := false, usualHvcEntry := false }
    pc := 0#32
    pstate := { zeroPstate with el := 0b10#2, m := 0b11010#5, a := 1#1, i := 1#1, f := 1#1 }
    el2Enabled := true
    el2A32 := true
    el3A32 := false
    scrHce := 0#1
    scrEl3Hce := 0#1
    hcrHcd := 0#1
    hcrEl2Hcd := 0#1
    hsr := { ec := 0#6, imm16 := 0#16, other := 0#10 }
    gpr := Vector.replicate 15 0#32
    elrHyp := 0#32
    spsrHyp := zeroPstate
    hvbar := 0#32
    hsctlrTe := 0#1
    hsctlrEe := 0#1
    scrEa := 0#1
    scrIrq := 0#1
    scrFiq := 0#1
    mem := []
    raised := none
    draws := Config.freshDraws 0
    tick := 0 }

/-- Why the machine stops with a fault: never. Every exception of the spec is one the chip takes and goes on from
(70_reset_and_hazards.md R99), so it is a next state, and the spec's other stops are refusals (log 26). -/
inductive Fault where
deriving DecidableEq, Repr

/-- Why the model declines to give a step (00_scope.md R12 `refuse`). Each one is safe: nothing is asserted of the chip. -/
inductive Refusal where
  /-- Raised by an arm of `exec` whose instruction has no meaning yet. No arm raises it. Safe. -/
  | notModelled (mnemonic : String)
  /-- Raised by the meaning of T1 when `IN_IT_BLOCK` (40_hvc.md R63: UNPREDICTABLE, no constraint in the source). Safe. -/
  | hvcT1InItBlock
  /-- Raised by the meaning of A1 on a term with `cond = 1111`, which is no HVC (30_encoding.md R52) and which the decoder never
  yields. Safe. -/
  | hvcA1Cond1111
  /-- Raised by `step` when `pc` is not aligned for `ISET` (20_memory.md R37). Safe. -/
  | misalignedPc (iset : ISet) (pc : Word)
  /-- Raised by `step` when a byte of the instruction is not in the program text (95_test_vectors.md P4; log 2). Safe. -/
  | noProgramText (pc : Word)
  /-- Raised by `step` when the decoder answers `NotHVC` (30_encoding.md R51, R55; 70_reset_and_hazards.md R99). Safe. -/
  | notHvc (iset : ISet) (pc : Word)
deriving DecidableEq, Repr

end Sys2Proof.Machine
end

