-- ==== Sys2Proof/Machine/Flags.lean ====
section
/-! DEFINITION. The condition table. HVC writes no flag (10_state.md R23); it reads them in one case only (40_hvc.md R62). -/

namespace Sys2Proof.Machine

/-- `CondHolds(cond, N, Z, C, V)` (10_state.md R24; PRESUMED, K12; log 11). The last row of the table is no condition; no meaning
asks for it. -/
def condHolds (cond : BitVec 4) (p : Pstate) : Bool :=
  match cond.toNat with
  | 0b0000 => p.z == 1#1
  | 0b0001 => p.z == 0#1
  | 0b0010 => p.c == 1#1
  | 0b0011 => p.c == 0#1
  | 0b0100 => p.n == 1#1
  | 0b0101 => p.n == 0#1
  | 0b0110 => p.v == 1#1
  | 0b0111 => p.v == 0#1
  | 0b1000 => p.c == 1#1 && p.z == 0#1
  | 0b1001 => p.c == 0#1 || p.z == 1#1
  | 0b1010 => p.n == p.v
  | 0b1011 => p.n != p.v
  | 0b1100 => p.z == 0#1 && p.n == p.v
  | 0b1101 => p.z == 1#1 || p.n != p.v
  | 0b1110 => true
  | _ => false

end Sys2Proof.Machine
end

