-- ==== Sys2Proof/Machine/Operands.lean ====
section
/-! DEFINITION. HVC's one operand, the 16-bit unsigned immediate, in its two splits, and what an assembler and a disassembler make
of it. -/

namespace Sys2Proof.Machine

/-- A1: `imm16 = imm12:imm4` (30_encoding.md R49). -/
def a1Imm16 (imm12 : BitVec 12) (imm4 : BitVec 4) : BitVec 16 := imm12 ++ imm4

/-- T1: `imm16 = imm4:imm12` (30_encoding.md R50). -/
def t1Imm16 (imm4 : BitVec 4) (imm12 : BitVec 12) : BitVec 16 := imm4 ++ imm12

/-- What an assembler makes of `HVC #<imm16>` (30_encoding.md R57, R59): A1 with `cond` 1110 for A32, T1 for T32; an immediate
outside 0 to 65535 is not encodable. -/
def assemble (iset : ISet) (imm16 : Nat) : Option Instr :=
  if imm16 < 65536 then
    match iset with
    | .a32 => some (.hvcA1 0b1110#4 ((BitVec.ofNat 16 imm16).extractLsb' 4 12) ((BitVec.ofNat 16 imm16).extractLsb' 0 4))
    | .t32 => some (.hvcT1 ((BitVec.ofNat 16 imm16).extractLsb' 12 4) ((BitVec.ofNat 16 imm16).extractLsb' 0 12))
  else none

/-- The number a disassembler prints in `HVC #<imm16>` (30_encoding.md R57). How an A1 word with another `cond` is printed is not
in the source. -/
def disassemble : Instr → Option Nat
  | .hvcA1 cond imm12 imm4 => if cond = 0b1110#4 then some (a1Imm16 imm12 imm4).toNat else none
  | .hvcT1 imm4 imm12 => some (t1Imm16 imm4 imm12).toNat

end Sys2Proof.Machine
end

