-- ==== Sys2Proof/WellFormed.lean ====
section
/-! DEFINITION. Which terms are instructions: the one constraint of the encoding diagrams, `cond != 1111` (30_encoding.md R47,
R52). The widths of the fields are in their types. -/

namespace Sys2Proof

/-- An A1 word with `cond == '1111'` is not an HVC (30_encoding.md R52). -/
def Instr.wf : Instr → Bool
  | .hvcA1 cond _ _ => cond != 0b1111#4
  | .hvcT1 _ _ => true

end Sys2Proof
end

