-- ==== Sys2Proof/Decode.lean ====
section
/-! DEFINITION. The decoder of 30_encoding.md R51, total on every input, the encoder of R47, R48 and R59, and the byte layout of
20_memory.md R36. -/

namespace Sys2Proof

/-- What decoding answers. `notHvc` (R51): the spec gives the word no meaning. It is not a statement that the word is illegal.
`truncated`: fewer than the four bytes both encodings have (R46). -/
inductive Decoded where
  | instr (i : Instr)
  | notHvc
  | truncated
deriving DecidableEq, Repr

/-- The bits of an encoding's diagram that are fixed (R47, R48; the opcode table's `mask`). -/
def fixedMask : ISet → Word
  | .a32 => 0x0FF000F0#32
  | .t32 => 0xFFF0F000#32

/-- The values of those bits (R47, R48; the opcode table's `match`). -/
def fixedBits : ISet → Word
  | .a32 => 0x01400070#32
  | .t32 => 0xF7E08000#32

/-- `Decode(ISET, word)` (30_encoding.md R51): in T32 the word is `hw1:hw2`. -/
def decode (iset : ISet) (w : Word) : Decoded :=
  match iset with
  | .a32 =>
    if w &&& fixedMask .a32 = fixedBits .a32 ∧ w.extractLsb' 28 4 ≠ 0b1111#4 then
      .instr (.hvcA1 (w.extractLsb' 28 4) (w.extractLsb' 8 12) (w.extractLsb' 0 4))
    else .notHvc
  | .t32 =>
    if w &&& fixedMask .t32 = fixedBits .t32 then
      .instr (.hvcT1 (w.extractLsb' 16 4) (w.extractLsb' 0 12))
    else .notHvc

/-- A field with its bit 0 at bit `lo` of an instruction (00_scope.md R10). -/
def placed {n : Nat} (field : BitVec n) (lo : Nat) : Word := field.setWidth 32 <<< lo

/-- The 32-bit value the four bytes at ascending addresses stand for (20_memory.md R36; PRESUMED, K1 and K18; log 3): an A32
word is little-endian; a T32 instruction is `hw1:hw2` with `hw1` at the lower address, each halfword little-endian. -/
def wordOfBytes (iset : ISet) (b0 b1 b2 b3 : Byte) : Word :=
  match iset with
  | .a32 => placed b0 0 ||| placed b1 8 ||| placed b2 16 ||| placed b3 24
  | .t32 => placed b0 16 ||| placed b1 24 ||| placed b2 0 ||| placed b3 8

/-- The four bytes, at ascending addresses, of a 32-bit instruction (20_memory.md R36): the inverse of `wordOfBytes`. -/
def bytesOfWord (iset : ISet) (w : Word) : List Byte :=
  match iset with
  | .a32 => [w.extractLsb' 0 8, w.extractLsb' 8 8, w.extractLsb' 16 8, w.extractLsb' 24 8]
  | .t32 => [w.extractLsb' 16 8, w.extractLsb' 24 8, w.extractLsb' 0 8, w.extractLsb' 8 8]

/-- Decoding of the bytes at ascending addresses. Both encodings take the first four (R46). -/
def decodeBytes (iset : ISet) : List Byte → Decoded
  | b0 :: b1 :: b2 :: b3 :: _ => decode iset (wordOfBytes iset b0 b1 b2 b3)
  | _ => .truncated

/-- The encoder: the fields of the diagrams of R47 and R48 in their places beside the fixed bits (the formulas of R59). -/
def encode : Instr → Word
  | .hvcA1 cond imm12 imm4 => placed cond 28 ||| fixedBits .a32 ||| placed imm12 8 ||| placed imm4 0
  | .hvcT1 imm4 imm12 => fixedBits .t32 ||| placed imm4 16 ||| placed imm12 0

/-- The bytes of an instruction, at ascending addresses. -/
def encodeBytes (i : Instr) : List Byte := bytesOfWord i.iset (encode i)

/-- The instruction set in which a table word is an HVC: the A1 and T1 patterns are disjoint, since T1 has bits 31 to 28 all one
and A1 must not (R47, R48). -/
def isetOfWord (w : Word) : Option ISet :=
  match decodeBytes .a32 (bytesOfWord .a32 w) with
  | .instr _ => some .a32
  | _ =>
    match decodeBytes .t32 (bytesOfWord .t32 w) with
    | .instr _ => some .t32
    | _ => none

/-- The low `nbits` bits of `w` as the 32-bit value of the table's numbering, all higher bits 0: for T1 the table numbers `hw1`
as bits 31 to 16 (00_scope.md R10; log 22). -/
def tableWord (nbits w : Nat) : Word := BitVec.ofNat 32 (w % 2 ^ nbits)

/-- The instruction the decoder reads from a word of spec/opcode_table.json, laid out in the bytes of its instruction set. -/
def decodeTableWord (nbits w : Nat) : Option Instr :=
  match isetOfWord (tableWord nbits w) with
  | some iset =>
    match decodeBytes iset (bytesOfWord iset (tableWord nbits w)) with
    | .instr i => some i
    | _ => none
  | none => none

end Sys2Proof
end

