-- ==== Sys2Proof/Machine/Ops.lean ====
section
/-! DEFINITION. The shared operations: program text and fetch (20_memory.md), the enable bit of the Operation (10_state.md R19,
R20), executing as a NOP (40_hvc.md R72), and taking an exception (60_exceptions.md R75, R77, R80, R81) and returning (R84). -/

namespace Sys2Proof.Machine

/-! ## Program text and fetch -/

/-- One byte of the program text. An unlisted address has no value (log 2). -/
def Memory.read : List Host.Cell → Nat → Option Byte
  | [], _ => none
  | (x, b) :: rest, a => if x = a then some b else Memory.read rest a

/-- The text with byte `b` at address `a`, in canonical form. No instruction writes memory (R34); loading a program does. -/
def Memory.write : List Host.Cell → Nat → Byte → List Host.Cell
  | [], a, b => [(a, b)]
  | (x, y) :: rest, a, b =>
    if a < x then (a, b) :: (x, y) :: rest
    else if a = x then (a, b) :: rest
    else (x, y) :: Memory.write rest a b

/-- The byte at a machine address. Addresses are 32 bits and wrap (log 4). -/
def State.readByte (s : State) (a : Word) : Option Byte := Memory.read s.mem a.toNat

/-- Store bytes at rising addresses from `a`, modulo 2^32 (log 4). -/
def storeBytes (m : List Host.Cell) (a : Word) : List Byte → List Host.Cell
  | [] => m
  | b :: rest => storeBytes (Memory.write m a.toNat b) (a + 1#32) rest

/-- 20_memory.md R37: a multiple of 4 in A32 state, of 2 in T32 state (PRESUMED, K19; log 5). -/
def aligned (iset : ISet) (pc : Word) : Bool :=
  match iset with
  | .a32 => pc.extractLsb' 0 2 == 0b00#2
  | .t32 => pc.extractLsb' 0 1 == 0b0#1

/-- `pc` with the bits that must be 0 cleared: where a program is loaded to run next. -/
def alignDown (iset : ISet) (pc : Word) : Word :=
  match iset with
  | .a32 => pc &&& 0xFFFFFFFC#32
  | .t32 => pc &&& 0xFFFFFFFE#32

/-- The instruction set a loaded table word selects, else the current one. -/
def selectIset (s : State) (w : Word) : ISet := (isetOfWord w).getD s.pstate.iset

/-- The four bytes of the instruction at `pc`: both encodings are 32 bits long (30_encoding.md R46, R56). -/
def fetchBytes (s : State) : Option (List Byte) :=
  match s.readByte s.pc, s.readByte (s.pc + 1#32), s.readByte (s.pc + 2#32), s.readByte (s.pc + 3#32) with
  | some b0, some b1, some b2, some b3 => some [b0, b1, b2, b3]
  | _, _, _, _ => none

/-! ## The inputs of the Operation -/

/-- `SCR_GEN[].HCE` (10_state.md R19). -/
def scrGenHce (s : State) : BitVec 1 := if s.el3A32 then s.scrHce else s.scrEl3Hce

/-- `hvc_enable` (40_hvc.md R65 lines 2, 6 and 8): the `HCE` bit when EL3 is implemented, else the complement of the `HCD` bit
of the register EL2's width selects (90_conflicts.md C2). -/
def hvcEnable (s : State) : BitVec 1 :=
  if s.impl.haveEl3 then scrGenHce s
  else if s.el2A32 then ~~~s.hcrHcd else ~~~s.hcrEl2Hcd

/-- The condition of R65 lines 2 and 3, the CONSTRAINED UNPREDICTABLE case of R67. -/
def hypHceClear (s : State) : Bool :=
  s.impl.haveEl3 && s.el3A32 && s.scrHce == 0#1 && s.pstate.el == Config.el2

/-! ## The ends of an execution -/

/-- Every execution draws: the next one has free values of its own (00_scope.md R7; log 10). -/
def State.redraw (s : State) : State := { s with tick := s.tick + 1, draws := Config.freshDraws (s.tick + 1) }

/-- `ExecuteAsNOP()` (40_hvc.md R72; PRESUMED, K29; log 12): `pc <- pc + 4` modulo 2^32 and nothing else of the machine. -/
def executeAsNop (s : State) : State := { s with pc := s.pc + 4#32, raised := none }.redraw

/-- What an exception entry leaves where the spec asserts nothing (60_exceptions.md R77, R80): every field but those R30 says no
outcome writes, `HSR`, and the program text, which nothing writes (20_memory.md R44; log 17). EL2 cannot come out enabled where
it is not implemented (R16 constraint 1; log 20). -/
def enter (e : Entry) (s : State) : State :=
  { s with
    pc := e.pc, pstate := e.pstate, gpr := e.gpr, elrHyp := e.elrHyp, spsrHyp := e.spsrHyp,
    el2Enabled := e.el2Enabled && s.impl.haveEl2,
    hvbar := e.hvbar, hsctlrTe := e.hsctlrTe, hsctlrEe := e.hsctlrEe, scrEa := e.scrEa, scrIrq := e.scrIrq, scrFiq := e.scrFiq }

/-- The Hyp vector an HVC enters at (20_memory.md R39, 60_exceptions.md R81): offset 0x08 from Hyp mode, 0x14 from below. -/
def hypVector (s : State) : Word :=
  s.hvbar.extractLsb' 5 27 ++ (if s.pstate.el = Config.el2 then 0b01000#5 else 0b10100#5)

/-- The mask bit of an asynchronous exception after entry to Hyp mode (R81): set, unless the `SCR` bit routes the exception to
an implemented EL3; R81 does not say what it then is, so it stays free. -/
def hypMask (s : State) (route free : BitVec 1) : BitVec 1 :=
  if s.impl.haveEl3 && route == 1#1 then free else 1#1

/-- The entry to AArch32 Hyp mode of 60_exceptions.md R81 (PRESUMED, K34; log 8), over the free values `e`: the saved `PSTATE` and
return address, the mode, the instruction set, the masks and the vector. What R81 does not speak of keeps its free value. The
IT state is not advanced first: HVC does not run inside an IT block (R63). -/
def usualHypEntry (s : State) (e : Entry) : Entry :=
  { e with
    pc := hypVector s
    elrHyp := s.pc + 4#32
    spsrHyp := s.pstate
    pstate :=
      { e.pstate with
        m := 0b11010#5
        el := Config.el2
        iset := if s.hsctlrTe = 1#1 then .t32 else .a32
        e := s.hsctlrEe
        inItBlock := false
        a := hypMask s s.scrEa e.pstate.a
        i := hypMask s s.scrIrq e.pstate.i
        f := hypMask s s.scrFiq e.pstate.f }
    hsrOther := 0b1000000000#10 }

/-- `HVC_ENTRY` (60_exceptions.md R80): the named parameter. It is the entry of R81 where the implementation is said to have it
and EL2 uses AArch32, else the free values (logs 7, 8). -/
def hvcEntry (s : State) : Entry :=
  if s.impl.usualHvcEntry && s.el2A32 then usualHypEntry s s.draws.entry else s.draws.entry

/-- Taking an exception: the event is recorded, then the state becomes what the entry leaves. -/
def takeException (ev : Event) (e : Entry) (s : State) : State := (enter e { s with raised := some ev }).redraw

/-- `HSR.EC <- 0x12`, `HSR.imm16 <- imm16` (60_exceptions.md R75); the other bits are the entry's (UB7; log 13). -/
def reportCall (imm16 : BitVec 16) (other : BitVec 10) (s : State) : State :=
  { s with hsr := { ec := 0x12#6, imm16 := imm16, other := other } }

/-- `raise HypervisorCall(imm16)` with its `HSR` write (40_hvc.md R65 line 10, R68). -/
def takeHypervisorCall (imm16 : BitVec 16) (s : State) : State :=
  takeException (.hypervisorCall imm16) (hvcEntry s) (reportCall imm16 (hvcEntry s).hsrOther s)

/-- `raise Undefined()` (60_exceptions.md R76, R77): `UNDEF_ENTRY` is open, and `HSR` is not written (40_hvc.md R68; log 9). -/
def takeUndefined (s : State) : State := takeException .undefined s.draws.entry s

/-- Return from Hyp mode (60_exceptions.md R84; PRESUMED, K35; log 23): `PSTATE` from `SPSR_hyp`, `pc` from `ELR_hyp`. No
instruction in scope returns, so no meaning calls it. -/
def hypReturn (s : State) : State := { s with pc := s.elrHyp, pstate := s.spsrHyp }

end Sys2Proof.Machine
end

