-- ==== Sys2Proof/Machine/Hvc.lean ====
section
/-! DEFINITION. The meanings of HVC (40_hvc.md): the shared Operation, then each encoding with its Decode first (decision D26). -/

namespace Sys2Proof.Machine

/-- R65 lines 3 to 5: HVC in Hyp mode with EL3 using AArch32 and `SCR.HCE` 0 (R67), under the draw `k` = `CU_HYP_HCE0`. -/
def hypHceClearOutcome (k : CuHypHce0) (s : State) : State :=
  match k with
  | .undef => takeUndefined s
  | .nop => executeAsNop s

/-- `Execute(imm16)` (R65), in the order of its lines. -/
def hvcExecute (imm16 : BitVec 16) (s : State) : State :=
  if s.pstate.el = Config.el0 ∨ s.pstate.el = Config.el3 ∨ s.el2Enabled = false then takeUndefined s
  else if hypHceClear s then hypHceClearOutcome s.draws.hypHce0 s
  else if hvcEnable s = 0#1 then takeUndefined s
  else takeHypervisorCall imm16 s

/-- `A1_CondCU(cond, imm16)` (R62), under the draw `k` = `CU_A1_COND`. The draw comes before the Operation, whose tests still
apply when it runs. -/
def a1CondCu (k : CuA1Cond) (cond : BitVec 4) (imm16 : BitVec 16) (s : State) : State :=
  match k with
  | .undef => takeUndefined s
  | .nop => executeAsNop s
  | .uncond => hvcExecute imm16 s
  | .cond => if condHolds cond s.pstate then hvcExecute imm16 s else executeAsNop s

/-- `HVC_A1(cond, imm12, imm4)` (R61). A term with `cond = 1111` is no HVC (30_encoding.md R52; log 27). -/
def execHvcA1 (cond : BitVec 4) (imm12 : BitVec 12) (imm4 : BitVec 4) (s : State) : Host.Outcome State Fault Refusal :=
  if cond = 0b1111#4 then .refused .hvcA1Cond1111
  else .next (if cond = 0b1110#4 then hvcExecute (a1Imm16 imm12 imm4) s
    else a1CondCu s.draws.a1Cond cond (a1Imm16 imm12 imm4) s)

/-- `HVC_T1(imm4, imm12)` (R63): refused in an IT block, where it is UNPREDICTABLE with no constraint listed (R54; log 21). -/
def execHvcT1 (imm4 : BitVec 4) (imm12 : BitVec 12) (s : State) : Host.Outcome State Fault Refusal :=
  if s.pstate.inItBlock then .refused .hvcT1InItBlock
  else .next (hvcExecute (t1Imm16 imm4 imm12) s)

end Sys2Proof.Machine
end

