-- ==== Sys2Proof/Machine/Dispatch.lean ====
section
/-! DEFINITION. One arm per instruction. -/

namespace Sys2Proof.Machine

def exec (i : Instr) (s : State) : Host.Outcome State Fault Refusal :=
  match i with
  | .hvcA1 cond imm12 imm4 => Sys2Proof.Machine.execHvcA1 cond imm12 imm4 s
  | .hvcT1 imm4 imm12 => Sys2Proof.Machine.execHvcT1 imm4 imm12 s

end Sys2Proof.Machine
end

