-- ==== Sys2Proof/Machine/Step.lean ====
section
/-! DEFINITION. One step: fetch at `pc`, decode in the current instruction set, execute (decision D1; 20_memory.md R35, R37;
70_reset_and_hazards.md R99). -/

namespace Sys2Proof.Machine

/-- One step of the machine. -/
def step (s : State) : Host.Outcome State Fault Refusal :=
  if aligned s.pstate.iset s.pc then
    match fetchBytes s with
    | none => .refused (.noProgramText s.pc)
    | some bs =>
      match decodeBytes s.pstate.iset bs with
      | .instr i => exec i s
      | .notHvc => .refused (.notHvc s.pstate.iset s.pc)
      | .truncated => .refused (.noProgramText s.pc)
  else .refused (.misalignedPc s.pstate.iset s.pc)

/-- `s` with the word's bytes in the program text where `step` fetches next, in the instruction set the word belongs to
(10_state.md R13: `ISET` selects the encoding table), `pc` aligned for it. It stands for loading a program (log 2). -/
def State.withFetchWord (s : State) (nbits w : Nat) : State :=
  let word := tableWord nbits w
  let iset := selectIset s word
  let pc := alignDown iset s.pc
  { s with pc := pc, pstate := { s.pstate with iset := iset }, mem := storeBytes s.mem pc (bytesOfWord iset word) }

end Sys2Proof.Machine
end

