-- ==== Sys2Proof/Safety.lean ====
section
/-! DEFINITION. The terms claims use: the end of a run (70_reset_and_hazards.md R99), the outcomes of an execution (40_hvc.md R60),
when the Hypervisor Call is permitted (R74, R95), and what an execution must leave alone (10_state.md R30). -/

namespace Sys2Proof.Machine

/-- R99: a run of the spec ends when a step raises. The chip goes on in a handler, and so does `step` (log 6). -/
abbrev RunEnds (s : State) : Prop := s.raised ≠ none

/-- The outcome `raise HypervisorCall(imm16)`. -/
def TakesHypervisorCall (o : Host.Outcome State Fault Refusal) (imm16 : BitVec 16) : Prop :=
  ∃ t, o = .next t ∧ t.raised = some (.hypervisorCall imm16)

/-- The outcome `raise Undefined()`. -/
def TakesUndefined (o : Host.Outcome State Fault Refusal) : Prop :=
  ∃ t, o = .next t ∧ t.raised = some .undefined

/-- The outcome `ExecuteAsNOP()` from `s`: `pc <- pc + 4`, no event, and every other field but the free values as it was. -/
def RunsAsNop (o : Host.Outcome State Fault Refusal) (s : State) : Prop :=
  ∃ t, o = .next t ∧ t = { s with pc := s.pc + 4#32, raised := none, draws := t.draws, tick := t.tick }

/-- From `s` and from `s'`, `i` takes the same one of the outcomes of R60, with the same immediate reported. -/
def SameOutcome (i : Instr) (s s' : State) : Prop :=
  (∀ imm16, TakesHypervisorCall (exec i s) imm16 ↔ TakesHypervisorCall (exec i s') imm16) ∧
  (TakesUndefined (exec i s) ↔ TakesUndefined (exec i s')) ∧ (RunsAsNop (exec i s) s ↔ RunsAsNop (exec i s') s')

/-- `i` goes straight to the Operation in `s`, with immediate `imm16`: A1 with `cond` 1110, or T1 outside an IT block (R61, R63,
R95 item 5). -/
abbrev ReachesOperation (i : Instr) (imm16 : BitVec 16) (s : State) : Prop :=
  match i with
  | .hvcA1 cond imm12 imm4 => cond = 0b1110#4 ∧ imm16 = imm12 ++ imm4
  | .hvcT1 imm4 imm12 => s.pstate.inItBlock = false ∧ imm16 = imm4 ++ imm12

/-- R95 items 1 to 4, the conditions of R74: the level, EL2 enabled, and the one enable bit that applies. -/
abbrev CallPermitted (s : State) : Prop :=
  (s.pstate.el = Config.el1 ∨ s.pstate.el = Config.el2) ∧ s.el2Enabled = true ∧
  (s.impl.haveEl3 = true → s.el3A32 = true → s.scrHce = 1#1) ∧
  (s.impl.haveEl3 = true → s.el3A32 = false → s.scrEl3Hce = 1#1) ∧
  (s.impl.haveEl3 = false → s.el2A32 = true → s.hcrHcd = 0#1) ∧
  (s.impl.haveEl3 = false → s.el2A32 = false → s.hcrEl2Hcd = 0#1)

/-- R67: the CONSTRAINED UNPREDICTABLE case of the Operation. -/
abbrev HypHceClear (s : State) : Prop :=
  s.pstate.el = Config.el2 ∧ s.el2Enabled = true ∧ s.impl.haveEl3 = true ∧ s.el3A32 = true ∧ s.scrHce = 0#1

/-- The rows of the table of 40_hvc.md R71 as conditions on the state. -/
abbrev OutcomeRow (s : State) : Fin 12 → Prop
  | 0 => s.pstate.el = 0b00#2
  | 1 => s.pstate.el = 0b11#2
  | 2 => (s.pstate.el = 0b01#2 ∨ s.pstate.el = 0b10#2) ∧ s.el2Enabled = false
  | 3 => s.pstate.el = 0b10#2 ∧ s.el2Enabled = true ∧ s.impl.haveEl3 = true ∧ s.el3A32 = true ∧ s.scrHce = 0#1
  | 4 => s.pstate.el = 0b01#2 ∧ s.el2Enabled = true ∧ s.impl.haveEl3 = true ∧ s.el3A32 = true ∧ s.scrHce = 0#1
  | 5 => (s.pstate.el = 0b01#2 ∨ s.pstate.el = 0b10#2) ∧ s.el2Enabled = true ∧ s.impl.haveEl3 = true ∧ s.el3A32 = true ∧
      s.scrHce = 1#1
  | 6 => (s.pstate.el = 0b01#2 ∨ s.pstate.el = 0b10#2) ∧ s.el2Enabled = true ∧ s.impl.haveEl3 = true ∧ s.el3A32 = false ∧
      s.scrEl3Hce = 0#1
  | 7 => (s.pstate.el = 0b01#2 ∨ s.pstate.el = 0b10#2) ∧ s.el2Enabled = true ∧ s.impl.haveEl3 = true ∧ s.el3A32 = false ∧
      s.scrEl3Hce = 1#1
  | 8 => (s.pstate.el = 0b01#2 ∨ s.pstate.el = 0b10#2) ∧ s.el2Enabled = true ∧ s.impl.haveEl3 = false ∧ s.el2A32 = true ∧
      s.hcrHcd = 1#1
  | 9 => (s.pstate.el = 0b01#2 ∨ s.pstate.el = 0b10#2) ∧ s.el2Enabled = true ∧ s.impl.haveEl3 = false ∧ s.el2A32 = true ∧
      s.hcrHcd = 0#1
  | 10 => (s.pstate.el = 0b01#2 ∨ s.pstate.el = 0b10#2) ∧ s.el2Enabled = true ∧ s.impl.haveEl3 = false ∧ s.el2A32 = false ∧
      s.hcrEl2Hcd = 1#1
  | 11 => (s.pstate.el = 0b01#2 ∨ s.pstate.el = 0b10#2) ∧ s.el2Enabled = true ∧ s.impl.haveEl3 = false ∧ s.el2A32 = false ∧
      s.hcrEl2Hcd = 0#1

/-- What no outcome of HVC writes (10_state.md R30, its last paragraph; R34, R44 for memory): the implementation, the register
widths, the control bits, and every byte of memory. -/
abbrev SameOutsideEntry (s t : State) : Prop :=
  t.impl = s.impl ∧ t.el2A32 = s.el2A32 ∧ t.el3A32 = s.el3A32 ∧
  t.scrHce = s.scrHce ∧ t.scrEl3Hce = s.scrEl3Hce ∧ t.hcrHcd = s.hcrHcd ∧ t.hcrEl2Hcd = s.hcrEl2Hcd ∧
  ∀ a, t.readByte a = s.readByte a

/-- The system registers an exception entry may have written, of which the spec then asserts nothing (R77, R80), and which HVC's
own pseudocode does not write (40_hvc.md R70). -/
abbrev SameEntryControls (s t : State) : Prop :=
  t.hvbar = s.hvbar ∧ t.hsctlrTe = s.hsctlrTe ∧ t.hsctlrEe = s.hsctlrEe ∧
  t.scrEa = s.scrEa ∧ t.scrIrq = s.scrIrq ∧ t.scrFiq = s.scrFiq

end Sys2Proof.Machine
end

