-- ==== Sys2Proof/Certificates/Slice0/Obligations.lean ====
section
/-! DEFINITION. The statements for the provers. A statement about a free value (`draws`) holds for every value of the field. In
all of them an exception is a next state that records its event, and an execution that takes one is said to complete or to go on;
the spec calls it a terminal outcome (R77, R80, R99): that form is the model's (DESIGN CHOICE, log 6). -/

open Sys2Proof Sys2Proof.Machine

/-! ## Encoding -/

/-- R59 (marked derived in the spec): decoding an encoded well-formed HVC gives it back, every field at every value, from the
word and from its bytes. -/
def Obligations.DecodeOfEncodeIsTheInstruction : Prop :=
  ∀ i : Instr, i.wf = true → decode i.iset (encode i) = .instr i ∧ decodeBytes i.iset (encodeBytes i) = .instr i

/-- R59 (marked derived): every word the decoder accepts is the encoding of exactly the one well-formed instruction it yields, of
the instruction set it was decoded in. -/
def Obligations.EncodeOfDecodeIsTheWord : Prop :=
  ∀ (iset : ISet) (w : Word) (i : Instr), decode iset w = .instr i →
    i.wf = true ∧ i.iset = iset ∧ encode i = w ∧ ∀ j : Instr, j.wf = true → j.iset = iset → encode j = w → j = i

/-- R51: the decoder, on every 32-bit value, in both instruction sets. -/
def Obligations.DecoderAcceptsExactlyTheTwoPatterns : Prop :=
  (∀ w : Word, decode .a32 w =
    if w &&& 0x0FF000F0#32 = 0x01400070#32 ∧ w.extractLsb' 28 4 ≠ 0b1111#4 then
      .instr (.hvcA1 (w.extractLsb' 28 4) (w.extractLsb' 8 12) (w.extractLsb' 0 4))
    else .notHvc) ∧
  (∀ w : Word, decode .t32 w =
    if w &&& 0xFFF0F000#32 = 0xF7E08000#32 then .instr (.hvcT1 (w.extractLsb' 16 4) (w.extractLsb' 0 12))
    else .notHvc)

/-- Words written out bit by bit from the diagrams of R47 and R48, and their nearest neighbours (R52, R55). -/
def Obligations.WrittenOutWordsDecode : Prop :=
  decode .a32 0b1110_0001_0100_0001_0010_0011_0111_0100#32 = .instr (.hvcA1 0b1110#4 0x123#12 0x4#4) ∧
  decode .a32 0b1101_0001_0100_1010_1011_1100_0111_1101#32 = .instr (.hvcA1 0b1101#4 0xABC#12 0xD#4) ∧
  decode .t32 0b1111_0111_1110_1010_1000_1011_1100_1101#32 = .instr (.hvcT1 0xA#4 0xBCD#12) ∧
  decode .a32 0b1111_0001_0100_0000_0000_0000_0111_0000#32 = .notHvc ∧
  decode .a32 0b1110_0001_0110_0000_0000_0000_0111_0000#32 = .notHvc ∧
  decode .t32 0b1111_0111_1111_0000_1000_0000_0000_0000#32 = .notHvc ∧
  decode .t32 0b1110_0001_0100_0000_0000_0000_0111_0000#32 = .notHvc

/-- R49: `imm16[15:4] = w[19:8]` and `imm16[3:0] = w[3:0]`, unsigned and unscaled, and every one of the 65536 values is the
immediate of an accepted word. -/
def Obligations.ImmediateOfAnA1Word : Prop :=
  (∀ (w : Word) (cond : BitVec 4) (imm12 : BitVec 12) (imm4 : BitVec 4), decode .a32 w = .instr (.hvcA1 cond imm12 imm4) →
    (a1Imm16 imm12 imm4).toNat = w.toNat / 2 ^ 8 % 2 ^ 12 * 2 ^ 4 + w.toNat % 2 ^ 4) ∧
  (∀ v : BitVec 16, ∃ (w : Word) (imm12 : BitVec 12) (imm4 : BitVec 4),
    decode .a32 w = .instr (.hvcA1 0b1110#4 imm12 imm4) ∧ a1Imm16 imm12 imm4 = v)

/-- R50, its first two sentences: `imm16[15:12] = hw1[3:0]` and `imm16[11:0] = hw2[11:0]`, and every value is legal. -/
def Obligations.ImmediateOfAT1Word : Prop :=
  (∀ (w : Word) (imm4 : BitVec 4) (imm12 : BitVec 12), decode .t32 w = .instr (.hvcT1 imm4 imm12) →
    (t1Imm16 imm4 imm12).toNat = w.toNat / 2 ^ 16 % 2 ^ 4 * 2 ^ 12 + w.toNat % 2 ^ 12) ∧
  (∀ v : BitVec 16, ∃ (w : Word) (imm4 : BitVec 4) (imm12 : BitVec 12),
    decode .t32 w = .instr (.hvcT1 imm4 imm12) ∧ t1Imm16 imm4 imm12 = v)

/-- R50 (marked derived there): the two splits of the same two fields agree only when all four hexadecimal digits are equal. -/
def Obligations.SplitsAgreeOnlyOnRepeatedDigit : Prop :=
  ∀ (imm12 : BitVec 12) (imm4 : BitVec 4),
    a1Imm16 imm12 imm4 = t1Imm16 imm4 imm12 ↔ imm12.toNat = imm4.toNat * 0x111

/-- R57 and R59 (marked derived): every immediate from 0 to 65535 assembles, in either instruction set, to a well-formed HVC of
that set with the word R59 gives; the word decodes to it and disassembles to the same number. No other immediate assembles. -/
def Obligations.EveryImmediateAssemblesToItsWord : Prop :=
  ∀ (iset : ISet) (n : Nat),
    (n < 65536 → ∃ i, assemble iset n = some i ∧ i.wf = true ∧ decode iset (encode i) = .instr i ∧ disassemble i = some n ∧
      (encode i).toNat = match iset with
        | .a32 => 0xE1400070 + n / 16 * 256 + n % 16
        | .t32 => 0xF7E08000 + n / 4096 * 65536 + n % 4096) ∧
    (65536 ≤ n → assemble iset n = none)

/-- R47 and R48: the boxes of the two diagrams, the words they make, and the masks. With `cond` 1110 the A1 pattern is
`mask 0xFFF000F0`, `match 0xE1400070`; T1 can be told by each halfword alone. -/
def Obligations.WordsAreLaidOutAsTheDiagrams : Prop :=
  (∀ (cond : BitVec 4) (imm12 : BitVec 12) (imm4 : BitVec 4), ∃ w, encode (.hvcA1 cond imm12 imm4) = w ∧
    w.extractLsb' 28 4 = cond ∧ w.extractLsb' 23 5 = 0b00010#5 ∧ w.extractLsb' 21 2 = 0b10#2 ∧ w.extractLsb' 20 1 = 0#1 ∧
    w.extractLsb' 8 12 = imm12 ∧ w.extractLsb' 4 4 = 0b0111#4 ∧ w.extractLsb' 0 4 = imm4 ∧
    w = (cond.setWidth 32 <<< 28) ||| 0x01400070#32 ||| (imm12.setWidth 32 <<< 8) ||| imm4.setWidth 32) ∧
  (∀ w : Word, (∃ i, decode .a32 w = .instr i) ↔ w &&& 0x0FF000F0#32 = 0x01400070#32 ∧ w.extractLsb' 28 4 ≠ 0b1111#4) ∧
  (∀ w : Word, (∃ imm12 imm4, decode .a32 w = .instr (.hvcA1 0b1110#4 imm12 imm4)) ↔ w &&& 0xFFF000F0#32 = 0xE1400070#32) ∧
  (∀ (imm4 : BitVec 4) (imm12 : BitVec 12), ∃ w, encode (.hvcT1 imm4 imm12) = w ∧
    w.extractLsb' 21 11 = 0b11110111111#11 ∧ w.extractLsb' 20 1 = 0#1 ∧ w.extractLsb' 16 4 = imm4 ∧
    w.extractLsb' 14 2 = 0b10#2 ∧ w.extractLsb' 13 1 = 0#1 ∧ w.extractLsb' 12 1 = 0#1 ∧ w.extractLsb' 0 12 = imm12 ∧
    w.extractLsb' 16 16 = 0xF7E0#16 ||| imm4.setWidth 16 ∧ w.extractLsb' 0 16 = 0x8000#16 ||| imm12.setWidth 16) ∧
  (∀ w : Word, (∃ i, decode .t32 w = .instr i) ↔ w &&& 0xFFF0F000#32 = 0xF7E08000#32) ∧
  (∀ w : Word, (∃ i, decode .t32 w = .instr i) ↔
    w.extractLsb' 16 16 &&& 0xFFF0#16 = 0xF7E0#16 ∧ w.extractLsb' 0 16 &&& 0xF000#16 = 0x8000#16)

/-! ## Fetch and step -/

/-- When the bytes at an aligned `pc` decode to `i`, a step is `exec i`, on the state as it is: `exec` itself moves the pc. -/
def Obligations.StepRunsTheDecodedInstruction : Prop :=
  ∀ (s : State) (bs : List Byte) (i : Instr), aligned s.pstate.iset s.pc = true → fetchBytes s = some bs →
    decodeBytes s.pstate.iset bs = .instr i → step s = exec i s

/-- R36 (the spec's own decision D14, from general knowledge; log 3): the four bytes at `pc`, `pc + 1`, `pc + 2`, `pc + 3` are
fetched; an A32 word is little-endian; a T32 instruction has `hw1` lower, each halfword little-endian. -/
def Obligations.FetchIsLittleEndian : Prop :=
  (∀ (s : State) (b0 b1 b2 b3 : Byte), s.readByte s.pc = some b0 → s.readByte (s.pc + 1#32) = some b1 →
    s.readByte (s.pc + 2#32) = some b2 → s.readByte (s.pc + 3#32) = some b3 → fetchBytes s = some [b0, b1, b2, b3]) ∧
  (∀ b0 b1 b2 b3 : Byte, decodeBytes .a32 [b0, b1, b2, b3] =
    decode .a32 (BitVec.ofNat 32 (b3.toNat * 2 ^ 24 + b2.toNat * 2 ^ 16 + b1.toNat * 2 ^ 8 + b0.toNat))) ∧
  (∀ b0 b1 b2 b3 : Byte, decodeBytes .t32 [b0, b1, b2, b3] =
    decode .t32 (BitVec.ofNat 32 ((b1.toNat * 2 ^ 8 + b0.toNat) * 2 ^ 16 + (b3.toNat * 2 ^ 8 + b2.toNat))))

/-- R37 (the spec's own decision D15): a `pc` that is no multiple of 4 in A32, of 2 in T32, gives no step. -/
def Obligations.MisalignedPcIsRefused : Prop :=
  ∀ s : State,
    (s.pstate.iset = .a32 → s.pc.toNat % 4 ≠ 0 → step s = .refused (.misalignedPc .a32 s.pc)) ∧
    (s.pstate.iset = .t32 → s.pc.toNat % 2 ≠ 0 → step s = .refused (.misalignedPc .t32 s.pc))

/-- R55, R99: a fetched word that is no HVC is refused (neither UNDEFINED nor a no-op), and so is a missing program text (log 2). -/
def Obligations.WordsThatAreNotHvcAreRefused : Prop :=
  ∀ s : State, aligned s.pstate.iset s.pc = true →
    (∀ bs, fetchBytes s = some bs → decodeBytes s.pstate.iset bs = .notHvc →
      step s = .refused (.notHvc s.pstate.iset s.pc)) ∧
    (fetchBytes s = none → step s = .refused (.noProgramText s.pc))

/-- The machine goes on in every state but those the spec refuses: a step gives a next state exactly when `pc` is aligned (R37),
the bytes there are an HVC of the current instruction set (R51, R99), and it is not T1 in an IT block (R63). That an exception,
which R77 and R80 call terminal, is a next state is the model's choice (DESIGN CHOICE, log 6). -/
def Obligations.StepGoesOnExceptWhereTheSpecRefuses : Prop :=
  ∀ s : State, (∃ t, step s = .next t) ↔
    aligned s.pstate.iset s.pc = true ∧
    (∃ bs i, fetchBytes s = some bs ∧ decodeBytes s.pstate.iset bs = .instr i) ∧
    ¬ (s.pstate.iset = .t32 ∧ s.pstate.inItBlock = true)

/-! ## The Operation -/

/-- R65, line by line, for both encodings: the instruction completes, and the tests come in this order. The model's choices in
it: `raise` is a next state that records the event (log 6), line 4 follows the draw held in State (log 10), and `ExecuteAsNOP` is
what R72 and decision D13 say (PRESUMED, log 12). -/
def Obligations.OperationRunsInSourceOrder : Prop :=
  ∀ (i : Instr) (imm16 : BitVec 16) (s : State), ReachesOperation i imm16 s → ∃ t, exec i s = .next t ∧
    if s.pstate.el = 0b00#2 ∨ s.pstate.el = 0b11#2 ∨ s.el2Enabled = false then t.raised = some .undefined
    else if s.impl.haveEl3 = true ∧ s.el3A32 = true ∧ s.scrHce = 0#1 ∧ s.pstate.el = 0b10#2 then
      match s.draws.hypHce0 with
      | .undef => t.raised = some .undefined
      | .nop => t = { s with pc := s.pc + 4#32, raised := none, draws := t.draws, tick := t.tick }
    else if (if s.impl.haveEl3 then (if s.el3A32 then s.scrHce else s.scrEl3Hce)
        else (if s.el2A32 then ~~~s.hcrHcd else ~~~s.hcrEl2Hcd)) = 0#1 then t.raised = some .undefined
    else t.hsr.ec = 0x12#6 ∧ t.hsr.imm16 = imm16 ∧ t.raised = some (.hypervisorCall imm16)

/-- R60, its table: a well-formed HVC, from any state, ends in the Hypervisor Call exception, in UNDEFINED, as a NOP, or, for T1 in
an IT block only, in the refusal. -/
def Obligations.EveryHvcEndsInAListedOutcome : Prop :=
  ∀ (i : Instr) (s : State), i.wf = true →
    (∃ imm16, TakesHypervisorCall (exec i s) imm16) ∨ TakesUndefined (exec i s) ∨ RunsAsNop (exec i s) s ∨
    (exec i s = .refused .hvcT1InItBlock ∧ i.iset = .t32 ∧ s.pstate.inItBlock = true)

/-- R71 (marked derived), the twelve rows, for both encodings. -/
def Obligations.OutcomeTableRowsHold : Prop :=
  ∀ (i : Instr) (imm16 : BitVec 16) (s : State), ReachesOperation i imm16 s →
    (OutcomeRow s 0 → TakesUndefined (exec i s)) ∧ (OutcomeRow s 1 → TakesUndefined (exec i s)) ∧
    (OutcomeRow s 2 → TakesUndefined (exec i s)) ∧
    (OutcomeRow s 3 → TakesUndefined (exec i s) ∨ RunsAsNop (exec i s) s) ∧
    (OutcomeRow s 4 → TakesUndefined (exec i s)) ∧ (OutcomeRow s 5 → TakesHypervisorCall (exec i s) imm16) ∧
    (OutcomeRow s 6 → TakesUndefined (exec i s)) ∧ (OutcomeRow s 7 → TakesHypervisorCall (exec i s) imm16) ∧
    (OutcomeRow s 8 → TakesUndefined (exec i s)) ∧ (OutcomeRow s 9 → TakesHypervisorCall (exec i s) imm16) ∧
    (OutcomeRow s 10 → TakesUndefined (exec i s)) ∧ (OutcomeRow s 11 → TakesHypervisorCall (exec i s) imm16)

/-- R71's closing sentence: the rows are pairwise disjoint and together cover every state. -/
def Obligations.OutcomeTableRowsPartition : Prop :=
  ∀ s : State, ∃ r, OutcomeRow s r ∧ ∀ r', OutcomeRow s r' → r' = r

/-- R74 and R95: an HVC that reaches the Operation takes the Hypervisor Call exception exactly in the permitted states. -/
def Obligations.CallTakenExactlyWhenPermitted : Prop :=
  ∀ (i : Instr) (imm16 : BitVec 16) (s : State), ReachesOperation i imm16 s →
    (TakesHypervisorCall (exec i s) imm16 ↔ CallPermitted s)

/-- The whole machine (R74, R75, R86, R87): no step from any state takes the Hypervisor Call exception unless it is permitted
there, and then the syndrome is reported. The exception is a next state with its event (log 6). -/
def Obligations.OnlyPermittedStatesCallTheHypervisor : Prop :=
  ∀ (s t : State) (imm16 : BitVec 16), step s = .next t → t.raised = some (.hypervisorCall imm16) →
    CallPermitted s ∧ t.hsr.ec = 0x12#6 ∧ t.hsr.imm16 = imm16

/-- R75: when, and only when, the Hypervisor Call exception is taken, `HSR.EC` receives 0x12 and `HSR.imm16` the instruction's
immediate. The immediate is that of the encoding. That both are as before in the state after the UNDEFINED entry too is the
model's reading (DEDUCED, unsafe, log 9): R30 and R77 assert nothing after `UNDEF_ENTRY`. -/
def Obligations.SyndromeWrittenExactlyByTheCall : Prop :=
  ∀ (i : Instr) (s t : State), exec i s = .next t →
    (∀ imm16, t.raised = some (.hypervisorCall imm16) → t.hsr.ec = 0x12#6 ∧ t.hsr.imm16 = imm16 ∧
      match i with
      | .hvcA1 _ imm12 imm4 => imm16 = imm12 ++ imm4
      | .hvcT1 imm4 imm12 => imm16 = imm4 ++ imm12) ∧
    ((∀ imm16, t.raised ≠ some (.hypervisorCall imm16)) → t.hsr.ec = s.hsr.ec ∧ t.hsr.imm16 = s.hsr.imm16)

/-- R62 (decision D10): A1 with `cond` in 0000 to 1101 completes with the behaviour drawn: UNDEFINED, NOP, as if `cond` were
1110, or that under the condition. The Operation's own tests still apply in the last two. -/
def Obligations.ConditionalA1TakesTheDrawnBehaviour : Prop :=
  ∀ (cond : BitVec 4) (imm12 : BitVec 12) (imm4 : BitVec 4) (s : State), cond ≠ 0b1110#4 → cond ≠ 0b1111#4 →
    ∃ t, exec (.hvcA1 cond imm12 imm4) s = .next t ∧
      match s.draws.a1Cond with
      | .undef => t.raised = some .undefined
      | .nop => t = { s with pc := s.pc + 4#32, raised := none, draws := t.draws, tick := t.tick }
      | .uncond => exec (.hvcA1 0b1110#4 imm12 imm4) s = .next t
      | .cond =>
        if condHolds cond s.pstate = true then exec (.hvcA1 0b1110#4 imm12 imm4) s = .next t
        else t = { s with pc := s.pc + 4#32, raised := none, draws := t.draws, tick := t.tick }

/-- R67 (decision D11): in Hyp mode with EL3 using AArch32 and `SCR.HCE` 0 the instruction is UNDEFINED or a NOP, as drawn, and
never a Hypervisor Call, whichever the encoding and the condition. -/
def Obligations.HypModeWithHceClearNeverCalls : Prop :=
  ∀ (i : Instr) (s : State), HypHceClear s →
    (∀ imm16, ¬ TakesHypervisorCall (exec i s) imm16) ∧
    (∀ imm16, ReachesOperation i imm16 s →
      (s.draws.hypHce0 = .undef → TakesUndefined (exec i s)) ∧ (s.draws.hypHce0 = .nop → RunsAsNop (exec i s) s))

/-- R54, R63 (decision D12): T1 in an IT block is refused, whatever else the state holds, and outside one it completes. -/
def Obligations.T1IsRefusedExactlyInAnItBlock : Prop :=
  ∀ (imm4 : BitVec 4) (imm12 : BitVec 12) (s : State),
    (s.pstate.inItBlock = true → exec (.hvcT1 imm4 imm12) s = .refused .hvcT1InItBlock) ∧
    (s.pstate.inItBlock = false → ∃ t, exec (.hvcT1 imm4 imm12) s = .next t)

/-- R52: A1 with `cond` 1111 is no HVC. No word decodes to it, and `exec` refuses the term (log 27). -/
def Obligations.A1WithCond1111IsNoHvc : Prop :=
  (∀ w : Word, w.extractLsb' 28 4 = 0b1111#4 → decode .a32 w = .notHvc) ∧
  (∀ (imm12 : BitVec 12) (imm4 : BitVec 4) (s : State), exec (.hvcA1 0b1111#4 imm12 imm4) s = .refused .hvcA1Cond1111)

/-- R69: the immediate influences nothing but `HSR.imm16` and the argument of the exception. For two immediates the outcomes are
the same kind, and the two next states differ in the value reported only; on a Hypervisor Call `HSR.imm16` is the argument of the
event (that it is the encoding's immediate is `SyndromeWrittenExactlyByTheCall`). That the two states after the entry agree rests
on the model's one free entry for both immediates (DESIGN CHOICE, log 7): R80 gives `HVC_ENTRY` the immediate. -/
def Obligations.ImmediateDoesNotDecideTheOutcome : Prop :=
  ∀ (i j : Instr) (s : State),
    (∃ cond a b a' b', i = .hvcA1 cond a b ∧ j = .hvcA1 cond a' b') ∨ (∃ a b a' b', i = .hvcT1 a b ∧ j = .hvcT1 a' b') →
    (∀ r, exec i s = .refused r → exec j s = .refused r) ∧
    (∀ t, exec i s = .next t → ∃ t', exec j s = .next t' ∧
      t' = { t with hsr := { t.hsr with imm16 := t'.hsr.imm16 }, raised := t'.raised } ∧
      (t.raised = none → t' = t) ∧ (t.raised = some .undefined → t' = t) ∧
      (∀ imm16, t.raised = some (.hypervisorCall imm16) →
        ∃ imm16', t'.raised = some (.hypervisorCall imm16') ∧ t'.hsr.imm16 = imm16'))

/-- R65's closing paragraph, R86 and 90_conflicts.md C2: a control the Operation does not read does not matter. With EL3, the
`HCD` bits and EL2's width; of the two `HCE` bits the one of the other width; without EL3, the `HCE` bits and EL3's width; of the
two `HCD` bits the one of the other width. -/
def Obligations.UnreadControlsDoNotMatter : Prop :=
  ∀ (i : Instr) (s : State) (x y : BitVec 1) (b : Bool),
    (s.impl.haveEl3 = true → SameOutcome i s { s with hcrHcd := x, hcrEl2Hcd := y, el2A32 := b }) ∧
    (s.impl.haveEl3 = true → s.el3A32 = true → SameOutcome i s { s with scrEl3Hce := x }) ∧
    (s.impl.haveEl3 = true → s.el3A32 = false → SameOutcome i s { s with scrHce := x }) ∧
    (s.impl.haveEl3 = false → SameOutcome i s { s with scrHce := x, scrEl3Hce := y, el3A32 := b }) ∧
    (s.impl.haveEl3 = false → s.el2A32 = true → SameOutcome i s { s with hcrEl2Hcd := x }) ∧
    (s.impl.haveEl3 = false → s.el2A32 = false → SameOutcome i s { s with hcrHcd := x })

/-- R87 and 90_conflicts.md C1: at EL0 and at EL3 an HVC that reaches the Operation is UNDEFINED, whatever the other inputs, and
no HVC of any form takes the Hypervisor Call exception there. -/
def Obligations.NoCallFromUserModeOrEl3 : Prop :=
  ∀ (i : Instr) (s : State), s.pstate.el = 0b00#2 ∨ s.pstate.el = 0b11#2 →
    (∀ imm16, ReachesOperation i imm16 s → TakesUndefined (exec i s)) ∧ (∀ imm16, ¬ TakesHypervisorCall (exec i s) imm16)

/-- R66 case 4 through R16 constraint 1: in a well-formed state of an implementation without EL2, HVC is UNDEFINED. -/
def Obligations.UndefinedWhereEl2IsNotImplemented : Prop :=
  ∀ (i : Instr) (imm16 : BitVec 16) (s : State), s.wf → s.impl.haveEl2 = false → ReachesOperation i imm16 s →
    TakesUndefined (exec i s)

/-! ## Frames -/

/-- R72 and the NOP row of R30: where an execution raises nothing, `pc` moves to `pc + 4` modulo 2^32 and every other field is as
it was: flags, levels, registers, `HSR`, control bits, memory. Only the model's own draws move on. -/
def Obligations.NopOutcomeChangesOnlyThePc : Prop :=
  ∀ (i : Instr) (s t : State), exec i s = .next t → t.raised = none →
    t = { s with pc := s.pc + 4#32, raised := none, draws := t.draws, tick := t.tick }

/-- R60 and R72: the NOP outcome comes only from the two constrained cases, R62 and R67. -/
def Obligations.NopOnlyInTheConstrainedCases : Prop :=
  ∀ (i : Instr) (s t : State), exec i s = .next t → t.raised = none →
    (∃ cond imm12 imm4, i = .hvcA1 cond imm12 imm4 ∧ cond ≠ 0b1110#4 ∧ (s.draws.a1Cond = .nop ∨
      s.draws.a1Cond = .cond ∧ condHolds cond s.pstate = false)) ∨ HypHceClear s ∧ s.draws.hypHce0 = .nop

/-- R30's last paragraph, R34, for both encodings and every outcome: what HVC never writes. Where an exception is taken everything
else but `HSR` is open (R77, R80); where none is, HVBAR, HSCTLR and the routing bits of SCR are as before too (R70, R72). That an
entry stores to no byte of memory is the model's reading of R44 (DEDUCED, log 17). -/
def Obligations.NoOutcomeWritesControlsOrMemory : Prop :=
  ∀ (i : Instr) (s t : State), exec i s = .next t →
    SameOutsideEntry s t ∧ (t.raised = none → SameEntryControls s t)

/-- R68: on UNDEFINED `HSR` is as it was, its unnamed bits too. That the entry does not write it either is the model's reading
of the spec's vectors (log 9). -/
def Obligations.UndefinedLeavesTheSyndrome : Prop :=
  ∀ (i : Instr) (s t : State), exec i s = .next t → t.raised = some .undefined → t.hsr = s.hsr

/-! ## Invariants and runs -/

/-- R33's well-formedness (R16 constraint 1) and the canonical form of memory survive every step from every state that has
them. That an exception entry cannot enable an absent EL2 is the model's reading (log 20). -/
def Obligations.StepKeepsWellFormed : Prop :=
  ∀ s t : State, s.wf → step s = .next t → t.wf

/-- The reset state is well formed (R33). Its values are the model's (log 1). -/
def Obligations.ResetIsWellFormed : Prop := State.reset.wf

/-- R99 with R26 and R37: only "executes as NOP" continues a run; it continues at the next instruction, at an aligned `pc`, in
the same instruction set. -/
def Obligations.RunContinuesOnlyAtTheNextInstruction : Prop :=
  ∀ s t : State, step s = .next t → ¬ RunEnds t →
    t.pc.toNat = (s.pc.toNat + 4) % 2 ^ 32 ∧ t.pstate = s.pstate ∧ aligned t.pstate.iset t.pc = true

/-- R7, R62, R67: the choices may vary from one execution to the next. Every execution moves to the next draw of the free
constant, of which nothing is known. -/
def Obligations.EveryExecutionDrawsAnew : Prop :=
  ∀ (i : Instr) (s t : State), exec i s = .next t → t.tick = s.tick + 1 ∧ t.draws = Config.freshDraws t.tick

/-! ## The entry of general knowledge -/

/-- R81 (general knowledge, not the spec's rule; log 8): where the implementation is said to have the usual entry and EL2 uses
AArch32, a permitted HVC saves `PSTATE` and the return address, enters Hyp mode, takes `T` and `E` from `HSCTLR`, clears the IT
state, sets the masks not routed to EL3, and goes to the vector. -/
def Obligations.UsualEntryToHypMode : Prop :=
  ∀ (i : Instr) (imm16 : BitVec 16) (s : State), ReachesOperation i imm16 s → CallPermitted s →
    s.impl.usualHvcEntry = true → s.el2A32 = true → ∃ t, exec i s = .next t ∧
      t.elrHyp = s.pc + 4#32 ∧ t.spsrHyp = s.pstate ∧ t.pstate.m = 0b11010#5 ∧ t.pstate.el = 0b10#2 ∧
      (t.pstate.iset = .t32 ↔ s.hsctlrTe = 1#1) ∧ t.pstate.e = s.hsctlrEe ∧ t.pstate.inItBlock = false ∧
      ((s.impl.haveEl3 = true → s.scrEa = 0#1) → t.pstate.a = 1#1) ∧
      ((s.impl.haveEl3 = true → s.scrIrq = 0#1) → t.pstate.i = 1#1) ∧
      ((s.impl.haveEl3 = true → s.scrFiq = 0#1) → t.pstate.f = 1#1) ∧
      t.pc.toNat = s.hvbar.toNat / 32 * 32 + (if s.pstate.el = 0b10#2 then 0x08 else 0x14) ∧
      t.hsr = { ec := 0x12#6, imm16 := imm16, other := 0b1000000000#10 }

/-- R81 with R84 (general knowledge; logs 8, 23): returning from Hyp mode right after the usual entry resumes at the instruction
after the HVC with the `PSTATE` it had. -/
def Obligations.ReturnResumesAfterTheCall : Prop :=
  ∀ (i : Instr) (imm16 : BitVec 16) (s t : State), ReachesOperation i imm16 s → CallPermitted s →
    s.impl.usualHvcEntry = true → s.el2A32 = true → exec i s = .next t →
    (hypReturn t).pc = s.pc + 4#32 ∧ (hypReturn t).pstate = s.pstate

/-! ## The condition table -/

/-- R24 (general knowledge; log 11), the fifteen rows. -/
def Obligations.ConditionTableRows : Prop :=
  ∀ p : Pstate,
    condHolds 0b0000#4 p = (p.z == 1#1) ∧ condHolds 0b0001#4 p = (p.z == 0#1) ∧ condHolds 0b0010#4 p = (p.c == 1#1) ∧
    condHolds 0b0011#4 p = (p.c == 0#1) ∧ condHolds 0b0100#4 p = (p.n == 1#1) ∧ condHolds 0b0101#4 p = (p.n == 0#1) ∧
    condHolds 0b0110#4 p = (p.v == 1#1) ∧ condHolds 0b0111#4 p = (p.v == 0#1) ∧
    condHolds 0b1000#4 p = (p.c == 1#1 && p.z == 0#1) ∧ condHolds 0b1001#4 p = (p.c == 0#1 || p.z == 1#1) ∧
    condHolds 0b1010#4 p = (p.n == p.v) ∧ condHolds 0b1011#4 p = (p.n != p.v) ∧
    condHolds 0b1100#4 p = (p.z == 0#1 && p.n == p.v) ∧ condHolds 0b1101#4 p = (p.z == 1#1 || p.n != p.v) ∧
    condHolds 0b1110#4 p = true

/-- R24 (general knowledge; log 11): below AL the conditions come in pairs, each the other's negation, bit 0 choosing. -/
def Obligations.ConditionsComeInOppositePairs : Prop :=
  ∀ (cond : BitVec 4) (p : Pstate), cond.toNat < 14 → condHolds (cond ^^^ 1#4) p = !condHolds cond p
end

