-- ==== Sys2Proof/Laws/PerInstr.lean ====
section
/-! SUPPORT. Statements made of every instruction, one lemma per constructor (LAWS.json). -/

namespace Sys2Proof.Laws.FixedBits

/-- The encoder puts the diagram's fixed bits where the decoder's mask looks for them (30_encoding.md R47, R48). -/
def Statement (i : Instr) : Prop := encode i &&& fixedMask i.iset = fixedBits i.iset

theorem hvcA1 (cond : BitVec 4) (imm12 : BitVec 12) (imm4 : BitVec 4) : Statement (.hvcA1 cond imm12 imm4) := by
  simp only [Statement, encode, fixedMask, fixedBits, Instr.iset, placed]
  ext k hk
  interval_cases k <;> simp

theorem hvcT1 (imm4 : BitVec 4) (imm12 : BitVec 12) : Statement (.hvcT1 imm4 imm12) := by
  simp only [Statement, encode, fixedMask, fixedBits, Instr.iset, placed]
  ext k hk
  interval_cases k <;> simp

end Sys2Proof.Laws.FixedBits
end

