-- ==== Sys2Proof/Laws/Decode.lean ====
section
/-! SUPPORT. The fields of an encoded word, bytes against words, and the immediates as numbers. -/

namespace Sys2Proof

theorem encode_hvcA1_fields (cond : BitVec 4) (imm12 : BitVec 12) (imm4 : BitVec 4) :
    (encode (.hvcA1 cond imm12 imm4)).extractLsb' 28 4 = cond ∧ (encode (.hvcA1 cond imm12 imm4)).extractLsb' 8 12 = imm12 ∧
    (encode (.hvcA1 cond imm12 imm4)).extractLsb' 0 4 = imm4 := by
  simp only [encode, placed, fixedBits]
  refine ⟨?_, ?_, ?_⟩ <;> (ext k hk; interval_cases k <;> simp)

theorem encode_hvcT1_fields (imm4 : BitVec 4) (imm12 : BitVec 12) :
    (encode (.hvcT1 imm4 imm12)).extractLsb' 16 4 = imm4 ∧ (encode (.hvcT1 imm4 imm12)).extractLsb' 0 12 = imm12 := by
  simp only [encode, placed, fixedBits]
  refine ⟨?_, ?_⟩ <;> (ext k hk; interval_cases k <;> simp)

/-- Decoding the bytes of a word is decoding the word. -/
theorem decodeBytes_bytesOfWord (iset : ISet) (w : Word) : decodeBytes iset (bytesOfWord iset w) = decode iset w := by
  cases iset <;> simp only [decodeBytes, bytesOfWord] <;> congr 1 <;> simp only [wordOfBytes, placed] <;>
    (ext k hk; interval_cases k <;> simp)

/-- The opcode table's two patterns never both match (R47, R48), so a table word belongs to at most one instruction set. -/
theorem decode_disjoint {w : Word} {i : Instr} (h : decode .t32 w = .instr i) : decode .a32 w = .notHvc := by
  simp only [decode] at h
  split at h
  · rename_i hm
    have hc : w.extractLsb' 28 4 = 0b1111#4 := by
      simp only [fixedMask, fixedBits] at hm
      ext k hk
      have hb := congrArg (fun x => x.getLsbD (28 + k)) hm
      interval_cases k <;> simp at hb <;> simp [*]
    simp only [decode]
    rw [if_neg (fun hw => hw.2 hc)]
  · cases h

theorem Machine.a1Imm16_toNat (imm12 : BitVec 12) (imm4 : BitVec 4) :
    (Machine.a1Imm16 imm12 imm4).toNat = imm12.toNat * 2 ^ 4 + imm4.toNat := by
  show (imm12 ++ imm4).toNat = _
  rw [BitVec.toNat_append, Nat.shiftLeft_eq, Nat.mul_comm, ← Nat.two_pow_add_eq_or_of_lt imm4.isLt]

theorem Machine.t1Imm16_toNat (imm4 : BitVec 4) (imm12 : BitVec 12) :
    (Machine.t1Imm16 imm4 imm12).toNat = imm4.toNat * 2 ^ 12 + imm12.toNat := by
  show (imm4 ++ imm12).toNat = _
  rw [BitVec.toNat_append, Nat.shiftLeft_eq, Nat.mul_comm, ← Nat.two_pow_add_eq_or_of_lt imm12.isLt]

end Sys2Proof
end

