-- ==== Sys2Proof/Laws/State.lean ====
section
/-! SUPPORT. One lemma per field of State for each operation that makes a state, true by rfl, so that no later proof unfolds a record
update. -/

namespace Sys2Proof.Machine

/-! ## redraw -/

@[simp] theorem redraw_impl (s : State) : s.redraw.impl = s.impl := rfl
@[simp] theorem redraw_pc (s : State) : s.redraw.pc = s.pc := rfl
@[simp] theorem redraw_pstate (s : State) : s.redraw.pstate = s.pstate := rfl
@[simp] theorem redraw_el2Enabled (s : State) : s.redraw.el2Enabled = s.el2Enabled := rfl
@[simp] theorem redraw_el2A32 (s : State) : s.redraw.el2A32 = s.el2A32 := rfl
@[simp] theorem redraw_el3A32 (s : State) : s.redraw.el3A32 = s.el3A32 := rfl
@[simp] theorem redraw_scrHce (s : State) : s.redraw.scrHce = s.scrHce := rfl
@[simp] theorem redraw_scrEl3Hce (s : State) : s.redraw.scrEl3Hce = s.scrEl3Hce := rfl
@[simp] theorem redraw_hcrHcd (s : State) : s.redraw.hcrHcd = s.hcrHcd := rfl
@[simp] theorem redraw_hcrEl2Hcd (s : State) : s.redraw.hcrEl2Hcd = s.hcrEl2Hcd := rfl
@[simp] theorem redraw_hsr (s : State) : s.redraw.hsr = s.hsr := rfl
@[simp] theorem redraw_gpr (s : State) : s.redraw.gpr = s.gpr := rfl
@[simp] theorem redraw_elrHyp (s : State) : s.redraw.elrHyp = s.elrHyp := rfl
@[simp] theorem redraw_spsrHyp (s : State) : s.redraw.spsrHyp = s.spsrHyp := rfl
@[simp] theorem redraw_hvbar (s : State) : s.redraw.hvbar = s.hvbar := rfl
@[simp] theorem redraw_hsctlrTe (s : State) : s.redraw.hsctlrTe = s.hsctlrTe := rfl
@[simp] theorem redraw_hsctlrEe (s : State) : s.redraw.hsctlrEe = s.hsctlrEe := rfl
@[simp] theorem redraw_scrEa (s : State) : s.redraw.scrEa = s.scrEa := rfl
@[simp] theorem redraw_scrIrq (s : State) : s.redraw.scrIrq = s.scrIrq := rfl
@[simp] theorem redraw_scrFiq (s : State) : s.redraw.scrFiq = s.scrFiq := rfl
@[simp] theorem redraw_mem (s : State) : s.redraw.mem = s.mem := rfl
@[simp] theorem redraw_raised (s : State) : s.redraw.raised = s.raised := rfl
@[simp] theorem redraw_draws (s : State) : s.redraw.draws = Config.freshDraws (s.tick + 1) := rfl
@[simp] theorem redraw_tick (s : State) : s.redraw.tick = s.tick + 1 := rfl

/-! ## executeAsNop -/

@[simp] theorem executeAsNop_impl (s : State) : (executeAsNop s).impl = s.impl := rfl
@[simp] theorem executeAsNop_pc (s : State) : (executeAsNop s).pc = s.pc + 4#32 := rfl
@[simp] theorem executeAsNop_pstate (s : State) : (executeAsNop s).pstate = s.pstate := rfl
@[simp] theorem executeAsNop_el2Enabled (s : State) : (executeAsNop s).el2Enabled = s.el2Enabled := rfl
@[simp] theorem executeAsNop_el2A32 (s : State) : (executeAsNop s).el2A32 = s.el2A32 := rfl
@[simp] theorem executeAsNop_el3A32 (s : State) : (executeAsNop s).el3A32 = s.el3A32 := rfl
@[simp] theorem executeAsNop_scrHce (s : State) : (executeAsNop s).scrHce = s.scrHce := rfl
@[simp] theorem executeAsNop_scrEl3Hce (s : State) : (executeAsNop s).scrEl3Hce = s.scrEl3Hce := rfl
@[simp] theorem executeAsNop_hcrHcd (s : State) : (executeAsNop s).hcrHcd = s.hcrHcd := rfl
@[simp] theorem executeAsNop_hcrEl2Hcd (s : State) : (executeAsNop s).hcrEl2Hcd = s.hcrEl2Hcd := rfl
@[simp] theorem executeAsNop_hsr (s : State) : (executeAsNop s).hsr = s.hsr := rfl
@[simp] theorem executeAsNop_gpr (s : State) : (executeAsNop s).gpr = s.gpr := rfl
@[simp] theorem executeAsNop_elrHyp (s : State) : (executeAsNop s).elrHyp = s.elrHyp := rfl
@[simp] theorem executeAsNop_spsrHyp (s : State) : (executeAsNop s).spsrHyp = s.spsrHyp := rfl
@[simp] theorem executeAsNop_hvbar (s : State) : (executeAsNop s).hvbar = s.hvbar := rfl
@[simp] theorem executeAsNop_hsctlrTe (s : State) : (executeAsNop s).hsctlrTe = s.hsctlrTe := rfl
@[simp] theorem executeAsNop_hsctlrEe (s : State) : (executeAsNop s).hsctlrEe = s.hsctlrEe := rfl
@[simp] theorem executeAsNop_scrEa (s : State) : (executeAsNop s).scrEa = s.scrEa := rfl
@[simp] theorem executeAsNop_scrIrq (s : State) : (executeAsNop s).scrIrq = s.scrIrq := rfl
@[simp] theorem executeAsNop_scrFiq (s : State) : (executeAsNop s).scrFiq = s.scrFiq := rfl
@[simp] theorem executeAsNop_mem (s : State) : (executeAsNop s).mem = s.mem := rfl
@[simp] theorem executeAsNop_raised (s : State) : (executeAsNop s).raised = none := rfl
@[simp] theorem executeAsNop_draws (s : State) : (executeAsNop s).draws = Config.freshDraws (s.tick + 1) := rfl
@[simp] theorem executeAsNop_tick (s : State) : (executeAsNop s).tick = s.tick + 1 := rfl

/-! ## takeException -/

@[simp] theorem takeException_impl (ev : Event) (e : Entry) (s : State) : (takeException ev e s).impl = s.impl := rfl
@[simp] theorem takeException_pc (ev : Event) (e : Entry) (s : State) : (takeException ev e s).pc = e.pc := rfl
@[simp] theorem takeException_pstate (ev : Event) (e : Entry) (s : State) : (takeException ev e s).pstate = e.pstate := rfl
@[simp] theorem takeException_el2Enabled (ev : Event) (e : Entry) (s : State) : (takeException ev e s).el2Enabled = (e.el2Enabled && s.impl.haveEl2) := rfl
@[simp] theorem takeException_el2A32 (ev : Event) (e : Entry) (s : State) : (takeException ev e s).el2A32 = s.el2A32 := rfl
@[simp] theorem takeException_el3A32 (ev : Event) (e : Entry) (s : State) : (takeException ev e s).el3A32 = s.el3A32 := rfl
@[simp] theorem takeException_scrHce (ev : Event) (e : Entry) (s : State) : (takeException ev e s).scrHce = s.scrHce := rfl
@[simp] theorem takeException_scrEl3Hce (ev : Event) (e : Entry) (s : State) : (takeException ev e s).scrEl3Hce = s.scrEl3Hce := rfl
@[simp] theorem takeException_hcrHcd (ev : Event) (e : Entry) (s : State) : (takeException ev e s).hcrHcd = s.hcrHcd := rfl
@[simp] theorem takeException_hcrEl2Hcd (ev : Event) (e : Entry) (s : State) : (takeException ev e s).hcrEl2Hcd = s.hcrEl2Hcd := rfl
@[simp] theorem takeException_hsr (ev : Event) (e : Entry) (s : State) : (takeException ev e s).hsr = s.hsr := rfl
@[simp] theorem takeException_gpr (ev : Event) (e : Entry) (s : State) : (takeException ev e s).gpr = e.gpr := rfl
@[simp] theorem takeException_elrHyp (ev : Event) (e : Entry) (s : State) : (takeException ev e s).elrHyp = e.elrHyp := rfl
@[simp] theorem takeException_spsrHyp (ev : Event) (e : Entry) (s : State) : (takeException ev e s).spsrHyp = e.spsrHyp := rfl
@[simp] theorem takeException_hvbar (ev : Event) (e : Entry) (s : State) : (takeException ev e s).hvbar = e.hvbar := rfl
@[simp] theorem takeException_hsctlrTe (ev : Event) (e : Entry) (s : State) : (takeException ev e s).hsctlrTe = e.hsctlrTe := rfl
@[simp] theorem takeException_hsctlrEe (ev : Event) (e : Entry) (s : State) : (takeException ev e s).hsctlrEe = e.hsctlrEe := rfl
@[simp] theorem takeException_scrEa (ev : Event) (e : Entry) (s : State) : (takeException ev e s).scrEa = e.scrEa := rfl
@[simp] theorem takeException_scrIrq (ev : Event) (e : Entry) (s : State) : (takeException ev e s).scrIrq = e.scrIrq := rfl
@[simp] theorem takeException_scrFiq (ev : Event) (e : Entry) (s : State) : (takeException ev e s).scrFiq = e.scrFiq := rfl
@[simp] theorem takeException_mem (ev : Event) (e : Entry) (s : State) : (takeException ev e s).mem = s.mem := rfl
@[simp] theorem takeException_raised (ev : Event) (e : Entry) (s : State) : (takeException ev e s).raised = some ev := rfl
@[simp] theorem takeException_draws (ev : Event) (e : Entry) (s : State) : (takeException ev e s).draws = Config.freshDraws (s.tick + 1) := rfl
@[simp] theorem takeException_tick (ev : Event) (e : Entry) (s : State) : (takeException ev e s).tick = s.tick + 1 := rfl

/-! ## reportCall -/

@[simp] theorem reportCall_impl (imm16 : BitVec 16) (other : BitVec 10) (s : State) : (reportCall imm16 other s).impl = s.impl := rfl
@[simp] theorem reportCall_pc (imm16 : BitVec 16) (other : BitVec 10) (s : State) : (reportCall imm16 other s).pc = s.pc := rfl
@[simp] theorem reportCall_pstate (imm16 : BitVec 16) (other : BitVec 10) (s : State) : (reportCall imm16 other s).pstate = s.pstate := rfl
@[simp] theorem reportCall_el2Enabled (imm16 : BitVec 16) (other : BitVec 10) (s : State) : (reportCall imm16 other s).el2Enabled = s.el2Enabled := rfl
@[simp] theorem reportCall_el2A32 (imm16 : BitVec 16) (other : BitVec 10) (s : State) : (reportCall imm16 other s).el2A32 = s.el2A32 := rfl
@[simp] theorem reportCall_el3A32 (imm16 : BitVec 16) (other : BitVec 10) (s : State) : (reportCall imm16 other s).el3A32 = s.el3A32 := rfl
@[simp] theorem reportCall_scrHce (imm16 : BitVec 16) (other : BitVec 10) (s : State) : (reportCall imm16 other s).scrHce = s.scrHce := rfl
@[simp] theorem reportCall_scrEl3Hce (imm16 : BitVec 16) (other : BitVec 10) (s : State) : (reportCall imm16 other s).scrEl3Hce = s.scrEl3Hce := rfl
@[simp] theorem reportCall_hcrHcd (imm16 : BitVec 16) (other : BitVec 10) (s : State) : (reportCall imm16 other s).hcrHcd = s.hcrHcd := rfl
@[simp] theorem reportCall_hcrEl2Hcd (imm16 : BitVec 16) (other : BitVec 10) (s : State) : (reportCall imm16 other s).hcrEl2Hcd = s.hcrEl2Hcd := rfl
@[simp] theorem reportCall_hsr (imm16 : BitVec 16) (other : BitVec 10) (s : State) : (reportCall imm16 other s).hsr = Hsr.mk 0x12#6 imm16 other := rfl
@[simp] theorem reportCall_gpr (imm16 : BitVec 16) (other : BitVec 10) (s : State) : (reportCall imm16 other s).gpr = s.gpr := rfl
@[simp] theorem reportCall_elrHyp (imm16 : BitVec 16) (other : BitVec 10) (s : State) : (reportCall imm16 other s).elrHyp = s.elrHyp := rfl
@[simp] theorem reportCall_spsrHyp (imm16 : BitVec 16) (other : BitVec 10) (s : State) : (reportCall imm16 other s).spsrHyp = s.spsrHyp := rfl
@[simp] theorem reportCall_hvbar (imm16 : BitVec 16) (other : BitVec 10) (s : State) : (reportCall imm16 other s).hvbar = s.hvbar := rfl
@[simp] theorem reportCall_hsctlrTe (imm16 : BitVec 16) (other : BitVec 10) (s : State) : (reportCall imm16 other s).hsctlrTe = s.hsctlrTe := rfl
@[simp] theorem reportCall_hsctlrEe (imm16 : BitVec 16) (other : BitVec 10) (s : State) : (reportCall imm16 other s).hsctlrEe = s.hsctlrEe := rfl
@[simp] theorem reportCall_scrEa (imm16 : BitVec 16) (other : BitVec 10) (s : State) : (reportCall imm16 other s).scrEa = s.scrEa := rfl
@[simp] theorem reportCall_scrIrq (imm16 : BitVec 16) (other : BitVec 10) (s : State) : (reportCall imm16 other s).scrIrq = s.scrIrq := rfl
@[simp] theorem reportCall_scrFiq (imm16 : BitVec 16) (other : BitVec 10) (s : State) : (reportCall imm16 other s).scrFiq = s.scrFiq := rfl
@[simp] theorem reportCall_mem (imm16 : BitVec 16) (other : BitVec 10) (s : State) : (reportCall imm16 other s).mem = s.mem := rfl
@[simp] theorem reportCall_raised (imm16 : BitVec 16) (other : BitVec 10) (s : State) : (reportCall imm16 other s).raised = s.raised := rfl
@[simp] theorem reportCall_draws (imm16 : BitVec 16) (other : BitVec 10) (s : State) : (reportCall imm16 other s).draws = s.draws := rfl
@[simp] theorem reportCall_tick (imm16 : BitVec 16) (other : BitVec 10) (s : State) : (reportCall imm16 other s).tick = s.tick := rfl

/-! ## hypReturn -/

@[simp] theorem hypReturn_impl (s : State) : (hypReturn s).impl = s.impl := rfl
@[simp] theorem hypReturn_pc (s : State) : (hypReturn s).pc = s.elrHyp := rfl
@[simp] theorem hypReturn_pstate (s : State) : (hypReturn s).pstate = s.spsrHyp := rfl
@[simp] theorem hypReturn_el2Enabled (s : State) : (hypReturn s).el2Enabled = s.el2Enabled := rfl
@[simp] theorem hypReturn_el2A32 (s : State) : (hypReturn s).el2A32 = s.el2A32 := rfl
@[simp] theorem hypReturn_el3A32 (s : State) : (hypReturn s).el3A32 = s.el3A32 := rfl
@[simp] theorem hypReturn_scrHce (s : State) : (hypReturn s).scrHce = s.scrHce := rfl
@[simp] theorem hypReturn_scrEl3Hce (s : State) : (hypReturn s).scrEl3Hce = s.scrEl3Hce := rfl
@[simp] theorem hypReturn_hcrHcd (s : State) : (hypReturn s).hcrHcd = s.hcrHcd := rfl
@[simp] theorem hypReturn_hcrEl2Hcd (s : State) : (hypReturn s).hcrEl2Hcd = s.hcrEl2Hcd := rfl
@[simp] theorem hypReturn_hsr (s : State) : (hypReturn s).hsr = s.hsr := rfl
@[simp] theorem hypReturn_gpr (s : State) : (hypReturn s).gpr = s.gpr := rfl
@[simp] theorem hypReturn_elrHyp (s : State) : (hypReturn s).elrHyp = s.elrHyp := rfl
@[simp] theorem hypReturn_spsrHyp (s : State) : (hypReturn s).spsrHyp = s.spsrHyp := rfl
@[simp] theorem hypReturn_hvbar (s : State) : (hypReturn s).hvbar = s.hvbar := rfl
@[simp] theorem hypReturn_hsctlrTe (s : State) : (hypReturn s).hsctlrTe = s.hsctlrTe := rfl
@[simp] theorem hypReturn_hsctlrEe (s : State) : (hypReturn s).hsctlrEe = s.hsctlrEe := rfl
@[simp] theorem hypReturn_scrEa (s : State) : (hypReturn s).scrEa = s.scrEa := rfl
@[simp] theorem hypReturn_scrIrq (s : State) : (hypReturn s).scrIrq = s.scrIrq := rfl
@[simp] theorem hypReturn_scrFiq (s : State) : (hypReturn s).scrFiq = s.scrFiq := rfl
@[simp] theorem hypReturn_mem (s : State) : (hypReturn s).mem = s.mem := rfl
@[simp] theorem hypReturn_raised (s : State) : (hypReturn s).raised = s.raised := rfl
@[simp] theorem hypReturn_draws (s : State) : (hypReturn s).draws = s.draws := rfl
@[simp] theorem hypReturn_tick (s : State) : (hypReturn s).tick = s.tick := rfl

end Sys2Proof.Machine
end

