-- ==== Sys2Proof/Laws/Fetch.lean ====
section
/-! SUPPORT. A loaded word is the next one fetched: what `withFetchWord` promises. -/

namespace Sys2Proof.Machine

theorem aligned_alignDown (iset : ISet) (pc : Word) : aligned iset (alignDown iset pc) = true := by
  cases iset <;> simp only [aligned, alignDown, beq_iff_eq] <;> (ext k hk; interval_cases k <;> simp)

/-- The four bytes stored from an address are the four bytes fetched from it, anywhere in the address space. -/
theorem fetchBytes_storeBytes (s : State) (m : List Host.Cell) (b0 b1 b2 b3 : Byte) (hm : s.mem = storeBytes m s.pc [b0, b1, b2, b3]) :
    fetchBytes s = some [b0, b1, b2, b3] := by
  have ne (i j : Word) (h : i ≠ j) : (s.pc + i).toNat ≠ (s.pc + j).toNat := by
    intro he
    exact h (by simpa using BitVec.eq_of_toNat_eq he)
  have h1 : s.pc + 1#32 + 1#32 = s.pc + 2#32 := by rw [BitVec.add_assoc]; rfl
  have h2 : s.pc + 2#32 + 1#32 = s.pc + 3#32 := by rw [BitVec.add_assoc]; rfl
  have ne0 (j : Word) (h : j ≠ 0#32) : s.pc.toNat ≠ (s.pc + j).toNat := by simpa using ne 0#32 j h.symm
  have r3 : s.readByte (s.pc + 3#32) = some b3 := by
    simp only [State.readByte, hm, storeBytes, h1, h2, Memory.read_write_same]
  have r2 : s.readByte (s.pc + 2#32) = some b2 := by
    simp only [State.readByte, hm, storeBytes, h1, h2]
    rw [Memory.read_write_other _ _ (ne _ _ (by decide)), Memory.read_write_same]
  have r1 : s.readByte (s.pc + 1#32) = some b1 := by
    simp only [State.readByte, hm, storeBytes, h1, h2]
    rw [Memory.read_write_other _ _ (ne _ _ (by decide)), Memory.read_write_other _ _ (ne _ _ (by decide)),
      Memory.read_write_same]
  have r0 : s.readByte s.pc = some b0 := by
    simp only [State.readByte, hm, storeBytes, h1, h2]
    rw [Memory.read_write_other _ _ (ne0 _ (by decide)), Memory.read_write_other _ _ (ne0 _ (by decide)),
      Memory.read_write_other _ _ (ne0 _ (by decide)), Memory.read_write_same]
  simp only [fetchBytes, r0, r1, r2, r3]

theorem fetchBytes_withFetchWord (s : State) (nbits w : Nat) :
    fetchBytes (s.withFetchWord nbits w) = some (bytesOfWord (selectIset s (tableWord nbits w)) (tableWord nbits w)) := by
  cases h : selectIset s (tableWord nbits w) <;> simp only [bytesOfWord] <;>
    exact fetchBytes_storeBytes _ s.mem _ _ _ _ (by simp only [State.withFetchWord, h, bytesOfWord])

/-- The very next step runs the instruction of a loaded table word. -/
theorem step_withFetchWord (s : State) (nbits w : Nat) (i : Instr) (h : decodeTableWord nbits w = some i) :
    step (s.withFetchWord nbits w) = exec i (s.withFetchWord nbits w) := by
  unfold decodeTableWord at h
  split at h
  · rename_i iset hi
    split at h
    · rename_i j hj
      injection h with h
      subst h
      have hs : selectIset s (tableWord nbits w) = iset := by simp [selectIset, hi]
      have hp : (s.withFetchWord nbits w).pstate.iset = iset := hs
      have ha : aligned iset (s.withFetchWord nbits w).pc = true := by
        rw [← hs]
        exact aligned_alignDown _ _
      simp only [step, hp, ha, if_true, fetchBytes_withFetchWord, hs, hj]
    · cases h
  · cases h

end Sys2Proof.Machine
end

