-- ==== Sys2Proof/Laws/Hvc.lean ====
section
/-! SUPPORT. What the Operation, each encoding and a step can do, said once: later proofs cite these and do not unfold the
meanings. -/

namespace Sys2Proof.Machine

/-- The three ends of an execution, from `s`. -/
inductive Ends (s t : State) : Prop where
  | undefined (h : t = takeUndefined s)
  | nop (h : t = executeAsNop s)
  | call (imm16 : BitVec 16) (h : t = takeHypervisorCall imm16 s)

theorem hvcEnable_eq_one_iff (s : State) :
    hvcEnable s ≠ 0#1 ↔
      (s.impl.haveEl3 = true → s.el3A32 = true → s.scrHce = 1#1) ∧
      (s.impl.haveEl3 = true → s.el3A32 = false → s.scrEl3Hce = 1#1) ∧
      (s.impl.haveEl3 = false → s.el2A32 = true → s.hcrHcd = 0#1) ∧
      (s.impl.haveEl3 = false → s.el2A32 = false → s.hcrEl2Hcd = 0#1) := by
  have hb : ∀ b : BitVec 1, (b ≠ 0#1 ↔ b = 1#1) ∧ (~~~b = 1#1 ↔ b = 0#1) := by decide
  unfold hvcEnable scrGenHce
  cases s.impl.haveEl3 <;> cases s.el3A32 <;> cases s.el2A32 <;> simp [hb]

theorem hypHceClear_iff (s : State) :
    hypHceClear s = true ↔ s.impl.haveEl3 = true ∧ s.el3A32 = true ∧ s.scrHce = 0#1 ∧ s.pstate.el = Config.el2 := by
  simp [hypHceClear, and_assoc]

/-- The Operation, by its guards (40_hvc.md R65). -/
theorem hvcExecute_cases (imm16 : BitVec 16) (s : State) :
    ((s.pstate.el = Config.el0 ∨ s.pstate.el = Config.el3 ∨ s.el2Enabled = false) ∧ hvcExecute imm16 s = takeUndefined s) ∨
    (HypHceClear s ∧ hvcExecute imm16 s = hypHceClearOutcome s.draws.hypHce0 s) ∨
    (¬ CallPermitted s ∧ ¬ HypHceClear s ∧ hvcExecute imm16 s = takeUndefined s) ∨
    (CallPermitted s ∧ hvcExecute imm16 s = takeHypervisorCall imm16 s) := by
  have hel : ∀ e : BitVec 2, ¬ (e = Config.el0) → ¬ (e = Config.el3) → e = Config.el1 ∨ e = Config.el2 := by decide
  by_cases h1 : s.pstate.el = Config.el0 ∨ s.pstate.el = Config.el3 ∨ s.el2Enabled = false
  · exact .inl ⟨h1, by simp only [hvcExecute, if_pos h1]⟩
  have h1' := h1
  simp only [not_or, Bool.not_eq_false] at h1'
  obtain ⟨h0, h3, he2⟩ := h1'
  by_cases h2 : hypHceClear s = true
  · obtain ⟨ha, hb, hc, hd⟩ := (hypHceClear_iff s).1 h2
    exact .inr (.inl ⟨⟨hd, he2, ha, hb, hc⟩, by simp only [hvcExecute, if_neg h1, if_pos h2]⟩)
  by_cases h4 : hvcEnable s = 0#1
  · refine .inr (.inr (.inl ⟨fun hp => ?_, fun hh => ?_, by simp only [hvcExecute, if_neg h1, if_neg h2, if_pos h4]⟩))
    · exact (hvcEnable_eq_one_iff s).2 hp.2.2 h4
    · exact h2 ((hypHceClear_iff s).2 ⟨hh.2.2.1, hh.2.2.2.1, hh.2.2.2.2, hh.1⟩)
  · refine .inr (.inr (.inr ⟨⟨hel _ h0 h3, he2, (hvcEnable_eq_one_iff s).1 h4⟩, ?_⟩))
    simp only [hvcExecute, if_neg h1, if_neg h2, if_neg h4]

theorem hvcExecute_ends (imm16 : BitVec 16) (s : State) : Ends s (hvcExecute imm16 s) := by
  rcases hvcExecute_cases imm16 s with ⟨_, h⟩ | ⟨_, h⟩ | ⟨_, _, h⟩ | ⟨_, h⟩
  · exact .undefined h
  · cases hk : s.draws.hypHce0 with
    | undef => exact .undefined (by rw [h, hk]; rfl)
    | nop => exact .nop (by rw [h, hk]; rfl)
  · exact .undefined h
  · exact .call imm16 h

theorem a1CondCu_ends (k : CuA1Cond) (cond : BitVec 4) (imm16 : BitVec 16) (s : State) : Ends s (a1CondCu k cond imm16 s) := by
  cases k with
  | undef => exact .undefined rfl
  | nop => exact .nop rfl
  | uncond => exact hvcExecute_ends imm16 s
  | cond =>
    simp only [a1CondCu]
    split
    · exact hvcExecute_ends imm16 s
    · exact .nop rfl

/-- Everything an instruction can do when it gives a next state. -/
theorem exec_ends {i : Instr} {s t : State} (h : exec i s = .next t) : Ends s t := by
  cases i with
  | hvcA1 cond imm12 imm4 =>
    simp only [exec, execHvcA1] at h
    split at h
    · cases h
    · injection h with h
      subst h
      split
      · exact hvcExecute_ends _ s
      · exact a1CondCu_ends _ _ _ s
  | hvcT1 imm4 imm12 =>
    simp only [exec, execHvcT1] at h
    split at h
    · cases h
    · injection h with h
      subst h
      exact hvcExecute_ends _ s

/-- A form that reaches the Operation runs it. -/
theorem exec_reaches {i : Instr} {imm16 : BitVec 16} {s : State} (h : ReachesOperation i imm16 s) :
    exec i s = .next (hvcExecute imm16 s) := by
  cases i with
  | hvcA1 cond imm12 imm4 =>
    obtain ⟨rfl, rfl⟩ := h
    rfl
  | hvcT1 imm4 imm12 =>
    obtain ⟨hit, rfl⟩ := h
    simp [exec, execHvcT1, hit, t1Imm16]

/-- A step that gives a next state ran the instruction decoded from the bytes at an aligned `pc`. -/
theorem step_cases {s t : State} (h : step s = .next t) :
    ∃ bs i, aligned s.pstate.iset s.pc = true ∧ fetchBytes s = some bs ∧ decodeBytes s.pstate.iset bs = .instr i ∧
      exec i s = .next t := by
  unfold step at h
  split at h
  · rename_i hal
    split at h
    · cases h
    · rename_i bs hbs
      split at h
      · rename_i i hi
        exact ⟨bs, i, hal, hbs, hi, h⟩
      · cases h
      · cases h
  · cases h

end Sys2Proof.Machine
end

