-- ==== Sys2Proof/Tests/Slice0.lean ====
section
/-! SUPPORT. Tests whose expected results come from spec/95_test_vectors.md and from the encoding tables of spec/30_encoding.md,
and a witness for the hypotheses of every statement that has some. -/

namespace Sys2Proof.Tests

open Sys2Proof.Machine

/-! ## Well-formedness -/

theorem test_wf_refuses_cond_1111 : (Instr.hvcA1 0b1111#4 0x123#12 0x4#4).wf = false := by decide
theorem test_wf_accepts_both_encodings :
    (Instr.hvcA1 0b0000#4 0#12 0#4).wf = true ∧ (Instr.hvcT1 0xF#4 0xFFF#12).wf = true := by decide

/-! ## Decoding (R47, R48; vectors of 95_test_vectors.md §2 and §3) -/

theorem test_decode_a1_0x1234 :
    decode .a32 0b1110_0001_0100_0001_0010_0011_0111_0100#32 = .instr (.hvcA1 0b1110#4 0x123#12 0x4#4) := by decide
theorem test_decode_t1_0xABCD :
    decode .t32 0b1111_0111_1110_1010_1000_1011_1100_1101#32 = .instr (.hvcT1 0xA#4 0xBCD#12) := by decide
/-- The vectors' byte sequences of `HVC #0x1234` in A32 and of `HVC #0xABCD` in T32. -/
theorem test_decode_bytes :
    decodeBytes .a32 [0x74#8, 0x23#8, 0x41#8, 0xE1#8] = .instr (.hvcA1 0xE#4 0x123#12 0x4#4) ∧
    decodeBytes .t32 [0xEA#8, 0xF7#8, 0xCD#8, 0x8B#8] = .instr (.hvcT1 0xA#4 0xBCD#12) := by decide
/-- The accepted words and refused neighbours of the A32 table. -/
theorem test_decode_a32_neighbours :
    decode .a32 0x01400070#32 = .instr (.hvcA1 0#4 0#12 0#4) ∧ decode .a32 0xD14ABC7D#32 = .instr (.hvcA1 0xD#4 0xABC#12 0xD#4) ∧
    [0xF1400070#32, 0xE1200070#32, 0xE1600070#32, 0xE1000070#32, 0xE1500070#32, 0xE1C00070#32, 0xE0400070#32, 0xE3400070#32,
      0xE5400070#32, 0xE9400070#32, 0xE1400060#32, 0xE1400050#32, 0xE1400030#32, 0xE14000F0#32, 0xF7E08000#32].all
      (fun w => decode .a32 w = .notHvc) = true := by decide
/-- The accepted words and refused neighbours of the T32 table. -/
theorem test_decode_t32_neighbours :
    decode .t32 0xF7E08000#32 = .instr (.hvcT1 0#4 0#12) ∧ decode .t32 0xF7EF8FFF#32 = .instr (.hvcT1 0xF#4 0xFFF#12) ∧
    [0xF7F08000#32, 0xF7E0A000#32, 0xF7E09000#32, 0xF7E0C000#32, 0xF7E00000#32, 0xF7C08000#32, 0xF3E08000#32, 0xFFE08000#32,
      0xE7E08000#32, 0x77E08000#32, 0xE1400070#32].all (fun w => decode .t32 w = .notHvc) = true := by decide
/-- `0xF00F` and `0x0FF0` catch a decoder that swaps the two splits (§2). -/
theorem test_splits_are_not_swapped :
    a1Imm16 0xF00#12 0xF#4 = 0xF00F#16 ∧ t1Imm16 0xF#4 0x00F#12 = 0xF00F#16 ∧ a1Imm16 0x0FF#12 0x0#4 = 0x0FF0#16 ∧
    t1Imm16 0x0#4 0xFF0#12 = 0x0FF0#16 := by decide
theorem test_decode_table_words :
    decodeTableWord 32 0xE1412374 = some (.hvcA1 0xE#4 0x123#12 0x4#4) ∧
    decodeTableWord 32 0xF7EA8BCD = some (.hvcT1 0xA#4 0xBCD#12) ∧ decodeTableWord 32 0xF1400070 = none := by decide

/-- The ends of the immediate's range (R57). -/
theorem test_assemble_range :
    assemble .a32 0xFFFF = some (.hvcA1 0xE#4 0xFFF#12 0xF#4) ∧ assemble .t32 0x1234 = some (.hvcT1 0x1#4 0x234#12) ∧
    assemble .t32 65536 = none ∧ disassemble (.hvcA1 0xD#4 0#12 0#4) = none := by decide

/-! ## States -/

/-- No free value is used where it could matter: every draw is written out. -/
def zeroEntry : Entry :=
  { pc := 0#32, pstate := zeroPstate, gpr := Vector.replicate 15 0#32, elrHyp := 0#32, spsrHyp := zeroPstate, el2Enabled := false,
    hvbar := 0#32, hsctlrTe := 0#1, hsctlrEe := 0#1, scrEa := 0#1, scrIrq := 0#1, scrFiq := 0#1, hsrOther := 0#10 }

def zeroDraws : Draws := { a1Cond := .undef, hypHce0 := .undef, entry := zeroEntry }

/-- Vector E7: HVC enabled at EL1 by `SCR.HCE`. -/
def stateE7 : State :=
  { State.reset with
    impl := { haveEl2 := true, haveEl3 := true, usualHvcEntry := false }, pstate := { zeroPstate with el := 0b01#2 },
    el3A32 := true, scrHce := 1#1, draws := zeroDraws }

/-- Vector E5: Hyp mode, EL3 using AArch32, `SCR.HCE` 0, `SCR_EL3.HCE` 1. -/
def stateE5 : State :=
  { stateE7 with pstate := { zeroPstate with el := 0b10#2 }, scrHce := 0#1, scrEl3Hce := 1#1 }

def withDraws (s : State) (a1 : CuA1Cond) (hyp : CuHypHce0) : State :=
  { s with draws := { zeroDraws with a1Cond := a1, hypHce0 := hyp } }

/-- `s` at level `el`. -/
def atLevel (s : State) (el : BitVec 2) : State := { s with pstate := { s.pstate with el := el } }

/-- `s` with an IT block entered. -/
def inIt (s : State) : State := { s with pstate := { s.pstate with inItBlock := true } }

/-- `HVC #0x1234` (A1) and `HVC #1` (T1) loaded to run next. -/
def loadA1 (s : State) : State := s.withFetchWord 32 0xE1412374
def loadT1 (s : State) : State := s.withFetchWord 32 0xF7E08001

/-- A check of the next state, if there is one. -/
def nextIs (o : Host.Outcome State Fault Refusal) (p : State → Bool) : Bool :=
  match o with
  | .next t => p t
  | .fault _ => false
  | .refused _ => false

theorem nextIs_next {o : Host.Outcome State Fault Refusal} {p : State → Bool} (h : nextIs o p = true) :
    ∃ t, o = .next t ∧ p t = true := by
  cases o with
  | next t => exact ⟨t, rfl, h⟩
  | fault r => cases h
  | refused r => cases h

/-- The check's result is a refusal. -/
def refusedIs (o : Host.Outcome State Fault Refusal) (r : Refusal) : Bool :=
  match o with
  | .next _ => false
  | .fault _ => false
  | .refused r' => r' == r

/-! ## One instruction at a time -/

/-- Vector E7 with the word of vector P1: the syndrome, the event. -/
theorem test_a1_calls :
    nextIs (step (loadA1 stateE7)) (fun t => t.hsr.ec == 0x12#6 && t.hsr.imm16 == 0x1234#16 &&
      t.raised == some (.hypervisorCall 0x1234#16)) = true := by decide
/-- Vectors U4 and U5: HVCEQ #1 under the `COND` draw is a NOP with `Z` 0 and a call with `Z` 1. -/
theorem test_a1_conditional :
    nextIs (exec (.hvcA1 0#4 0#12 1#4) { withDraws stateE7 .cond .undef with pc := 0x8000#32 })
      (fun t => t.pc == 0x8004#32 && t.raised == none) = true ∧
    nextIs (exec (.hvcA1 0#4 0#12 1#4) { withDraws stateE7 .cond .undef with pstate := { zeroPstate with el := 0b01#2, z := 1#1 } })
      (fun t => t.raised == some (.hypervisorCall 1#16)) = true := by decide
/-- Vectors U12 and U11. -/
theorem test_t1_calls_outside_it_only :
    nextIs (step (loadT1 stateE7)) (fun t => t.hsr.imm16 == 1#16 && t.raised == some (.hypervisorCall 1#16)) = true ∧
    refusedIs (step (loadT1 (inIt stateE7))) .hvcT1InItBlock = true := by decide
/-- Program P2: User mode, `HSR` still `0x3F`, `0xFFFF`. -/
theorem test_t1_undefined_in_user_mode :
    nextIs (step (loadT1 { atLevel stateE7 0b00#2 with hsr := { ec := 0x3F#6, imm16 := 0xFFFF#16, other := 0#10 } }))
      (fun t => t.raised == some .undefined && t.hsr.ec == 0x3F#6 && t.hsr.imm16 == 0xFFFF#16) = true := by decide

/-! ## The host's fetch: the first instruction after reset -/

theorem test_reset_runs_table_words :
    nextIs (step (State.reset.withFetchWord 32 0x01400070)) (fun _ => true) = true ∧
    nextIs (step (State.reset.withFetchWord 32 0xE1400070)) (fun t => t.raised == some (.hypervisorCall 0#16)) = true ∧
    nextIs (step (State.reset.withFetchWord 32 0xF7E08000)) (fun t => t.raised == some (.hypervisorCall 0#16)) = true := by decide
theorem test_reset_alone_has_no_text : refusedIs (step State.reset) (.noProgramText 0#32) = true := by decide

/-! ## Witnesses: the hypotheses of each statement can be met -/

theorem witness_DecodeOfEncode : (Instr.hvcA1 0b1101#4 0xFFF#12 0xF#4).wf = true ∧ (Instr.hvcT1 0xF#4 0#12).wf = true := by decide
/-- Also of the two statements on immediates. -/
theorem witness_EncodeOfDecode :
    decode .a32 0xD14FFF7F#32 = .instr (.hvcA1 0xD#4 0xFFF#12 0xF#4) ∧ decode .t32 0xF7EF8FFF#32 = .instr (.hvcT1 0xF#4 0xFFF#12) := by
  decide

theorem witness_EveryImmediateAssembles : 0 < 65536 ∧ 65535 < 65536 ∧ 65536 ≤ 65536 := by decide

theorem witness_StepRunsTheDecodedInstruction :
    aligned (loadA1 stateE7).pstate.iset (loadA1 stateE7).pc = true ∧
    fetchBytes (loadA1 stateE7) = some [0x74#8, 0x23#8, 0x41#8, 0xE1#8] ∧
    decodeBytes .a32 [0x74#8, 0x23#8, 0x41#8, 0xE1#8] = .instr (.hvcA1 0xE#4 0x123#12 0x4#4) := by decide
/-- At the top of the address space the second halfword is at address 0. -/
theorem witness_FetchIsLittleEndian :
    let s := loadT1 { stateE7 with pc := 0xFFFFFFFE#32 }
    s.readByte s.pc = some 0xE0#8 ∧ s.readByte (s.pc + 1#32) = some 0xF7#8 ∧ s.readByte (s.pc + 2#32) = some 0x01#8 ∧
    s.readByte (s.pc + 3#32) = some 0x80#8 ∧ (s.pc + 2#32) = 0#32 := by decide
theorem witness_MisalignedPcIsRefused :
    ({ stateE7 with pc := 2#32 }.pstate.iset = .a32 ∧ (2#32).toNat % 4 ≠ 0) ∧
    ((loadT1 stateE7).pstate.iset = .t32 ∧ (1#32).toNat % 2 ≠ 0) := by decide
theorem witness_WordsThatAreNotHvcAreRefused :
    (let s := { loadT1 stateE7 with pstate := stateE7.pstate }
     aligned s.pstate.iset s.pc = true ∧ fetchBytes s = some [0xE0#8, 0xF7#8, 0x01#8, 0x80#8] ∧
      decodeBytes .a32 [0xE0#8, 0xF7#8, 0x01#8, 0x80#8] = .notHvc) ∧
    (aligned stateE7.pstate.iset stateE7.pc = true ∧ fetchBytes stateE7 = none) := by decide

/-- Of every statement on forms that reach the Operation. -/
theorem witness_ReachesOperation :
    ReachesOperation (.hvcA1 0xE#4 0x123#12 0x4#4) 0x1234#16 stateE7 ∧ ReachesOperation (.hvcT1 0x1#4 0x234#12) 0x1234#16 stateE7 := by
  decide
/-- Each row of the table, in its order, from the vectors E1 to E3 and E5 to E15. -/
theorem witness_OutcomeTableRows :
    OutcomeRow (atLevel stateE7 0b00#2) 0 ∧ OutcomeRow (atLevel stateE7 0b11#2) 1 ∧
    OutcomeRow { stateE7 with el2Enabled := false } 2 ∧ OutcomeRow stateE5 3 ∧ OutcomeRow (atLevel stateE5 0b01#2) 4 ∧
    OutcomeRow (atLevel stateE7 0b10#2) 5 ∧ OutcomeRow { stateE7 with el3A32 := false } 6 ∧
    OutcomeRow { stateE5 with el3A32 := false } 7 ∧
    OutcomeRow { stateE7 with impl := State.reset.impl, hcrHcd := 1#1 } 8 ∧
    OutcomeRow { stateE7 with impl := State.reset.impl, hcrEl2Hcd := 1#1 } 9 ∧
    OutcomeRow { stateE7 with impl := State.reset.impl, el2A32 := false, hcrEl2Hcd := 1#1 } 10 ∧
    OutcomeRow { stateE5 with impl := State.reset.impl, el2A32 := false, hcrHcd := 1#1 } 11 := by
  refine ⟨?_, ?_, ?_, ?_, ?_, ?_, ?_, ?_, ?_, ?_, ?_, ?_⟩ <;> simp [OutcomeRow, atLevel, stateE5, stateE7, State.reset]

theorem witness_CallPermitted :
    CallPermitted stateE7 ∧ CallPermitted (atLevel stateE7 0b10#2) ∧ CallPermitted State.reset ∧ ¬ CallPermitted stateE5 :=
  ⟨by decide, by decide, by decide, by decide⟩
theorem witness_OnlyPermittedStatesCall :
    ∃ t, step (loadA1 stateE7) = .next t ∧ t.raised = some (.hypervisorCall 0x1234#16) := by
  obtain ⟨t, h, hp⟩ := nextIs_next (show nextIs (step (loadA1 stateE7)) (fun t => t.raised == some (.hypervisorCall 0x1234#16)) = true by decide)
  exact ⟨t, h, by simpa using hp⟩
/-- The clauses of the syndrome statement, and the premises of the frames: a call, UNDEFINED, and a NOP. -/
theorem witness_OutcomesOccur :
    (∃ t, exec (.hvcT1 0x1#4 0x234#12) stateE7 = .next t ∧ t.raised = some (.hypervisorCall 0x1234#16)) ∧
    (∃ t, exec (.hvcA1 0xE#4 0x123#12 0x4#4) stateE5 = .next t ∧ t.raised = some .undefined) ∧
    (∃ t, exec (.hvcA1 0xE#4 0x123#12 0x4#4) (withDraws stateE5 .undef .nop) = .next t ∧ t.raised = none) ∧
    (∃ t, exec (.hvcA1 0x0#4 0x123#12 0x4#4) (withDraws stateE7 .nop .undef) = .next t ∧ t.raised = none) :=
  ⟨⟨_, rfl, rfl⟩, ⟨_, rfl, rfl⟩, ⟨_, rfl, rfl⟩, ⟨_, rfl, rfl⟩⟩
/-- Each arm of the conditional A1 statement, at the ends of the range of conditions. -/
theorem witness_ConditionalA1 :
    ((0b0000#4 : BitVec 4) ≠ 0b1110#4 ∧ (0b0000#4 : BitVec 4) ≠ 0b1111#4) ∧ ((0b1101#4 : BitVec 4) ≠ 0b1110#4 ∧ (0b1101#4 : BitVec 4) ≠ 0b1111#4) ∧
    (withDraws stateE7 .undef .undef).draws.a1Cond = .undef ∧ (withDraws stateE7 .nop .undef).draws.a1Cond = .nop ∧
    (withDraws stateE7 .uncond .undef).draws.a1Cond = .uncond ∧ (withDraws stateE7 .cond .undef).draws.a1Cond = .cond ∧
    condHolds 0b0000#4 stateE7.pstate = false ∧ condHolds 0b0001#4 stateE7.pstate = true := by decide
theorem witness_HypHceClear :
    HypHceClear (withDraws stateE5 .undef .undef) ∧ (withDraws stateE5 .undef .undef).draws.hypHce0 = .undef ∧
    HypHceClear (withDraws stateE5 .undef .nop) ∧ (withDraws stateE5 .undef .nop).draws.hypHce0 = .nop := by decide
theorem witness_T1InItBlock : (inIt stateE7).pstate.inItBlock = true ∧ stateE7.pstate.inItBlock = false := by decide
theorem witness_A1WithCond1111 : (0xF1400070#32).extractLsb' 28 4 = 0b1111#4 := by decide
/-- The refusal clause, and the two forms; the outcomes are those of `witness_OutcomesOccur`. -/
theorem witness_ImmediateDoesNotDecide :
    exec (.hvcT1 0#4 0#12) (inIt stateE7) = .refused .hvcT1InItBlock ∧
    (∃ cond a b a' b', (Instr.hvcA1 0xE#4 0#12 0#4) = .hvcA1 cond a b ∧ (Instr.hvcA1 0xE#4 0xFFF#12 0xF#4) = .hvcA1 cond a' b') ∧
    (∃ a b a' b', (Instr.hvcT1 0#4 0#12) = .hvcT1 a b ∧ (Instr.hvcT1 0xF#4 0xFFF#12) = .hvcT1 a' b') :=
  ⟨rfl, ⟨_, _, _, _, _, rfl, rfl⟩, ⟨_, _, _, _, rfl, rfl⟩⟩
theorem witness_UnreadControls :
    stateE7.impl.haveEl3 = true ∧ stateE7.el3A32 = true ∧ { stateE7 with el3A32 := false }.el3A32 = false ∧
    State.reset.impl.haveEl3 = false ∧ State.reset.el2A32 = true ∧ { State.reset with el2A32 := false }.el2A32 = false := by decide
theorem witness_NoCallFromUserModeOrEl3 :
    (atLevel stateE7 0b00#2).pstate.el = 0b00#2 ∧ (atLevel stateE7 0b11#2).pstate.el = 0b11#2 ∧
    ReachesOperation (.hvcA1 0xE#4 0#12 0#4) 0#16 (atLevel stateE7 0b00#2) ∧
    ReachesOperation (.hvcT1 0#4 0#12) 0#16 (atLevel stateE7 0b11#2) := by decide
theorem witness_El2NotImplemented :
    let s := { stateE7 with impl := { haveEl2 := false, haveEl3 := true, usualHvcEntry := false }, el2Enabled := false }
    s.wf ∧ s.impl.haveEl2 = false ∧ ReachesOperation (.hvcA1 0xE#4 0#12 0#4) 0#16 s := by decide
theorem witness_StepKeepsWellFormed : (loadA1 stateE7).wf ∧ ∃ t, step (loadA1 stateE7) = .next t := by
  refine ⟨by decide, ?_⟩
  obtain ⟨t, h, _⟩ := nextIs_next (show nextIs (step (loadA1 stateE7)) (fun _ => true) = true by decide)
  exact ⟨t, h⟩
theorem witness_RunContinues : ∃ t, step (loadA1 (withDraws stateE5 .undef .nop)) = .next t ∧ ¬ RunEnds t := by
  obtain ⟨t, h, hp⟩ := nextIs_next
    (show nextIs (step (loadA1 (withDraws stateE5 .undef .nop))) (fun t => t.raised == none) = true by decide)
  exact ⟨t, h, by simpa [RunEnds] using hp⟩
/-- Of both statements on the entry of R81, with every mask unrouted. -/
theorem witness_UsualEntry :
    let s := { stateE7 with impl := { haveEl2 := true, haveEl3 := true, usualHvcEntry := true } }
    ReachesOperation (.hvcA1 0xE#4 0x123#12 0x4#4) 0x1234#16 s ∧ CallPermitted s ∧ s.impl.usualHvcEntry = true ∧ s.el2A32 = true ∧
    (s.impl.haveEl3 = true → s.scrEa = 0#1) ∧ (s.impl.haveEl3 = true → s.scrIrq = 0#1) ∧
    (s.impl.haveEl3 = true → s.scrFiq = 0#1) ∧ ∃ t, exec (.hvcA1 0xE#4 0x123#12 0x4#4) s = .next t :=
  ⟨by decide, by decide, rfl, rfl, by decide, by decide, by decide, ⟨_, rfl⟩⟩
theorem witness_ConditionPairs : (0b0000#4).toNat < 14 ∧ (0b1101#4).toNat < 14 := by decide

end Sys2Proof.Tests
end

namespace Sys2Proof.Machine

/-! ## Free values -/

@[simp] theorem takeUndefined_tick (s : State) : (takeUndefined s).tick = s.tick + 1 := rfl
@[simp] theorem takeUndefined_draws (s : State) : (takeUndefined s).draws = Config.freshDraws (s.tick + 1) := rfl
@[simp] theorem takeHypervisorCall_tick (imm16 : BitVec 16) (s : State) : (takeHypervisorCall imm16 s).tick = s.tick + 1 := rfl
@[simp] theorem takeHypervisorCall_draws (imm16 : BitVec 16) (s : State) :
    (takeHypervisorCall imm16 s).draws = Config.freshDraws (s.tick + 1) := rfl

/-- Each of the three ends redraws (00_scope.md R7). -/
theorem Ends.tick_and_draws {s t : State} (h : Ends s t) : t.tick = s.tick + 1 ∧ t.draws = Config.freshDraws t.tick := by
  cases h with
  | undefined h => simp [h]
  | nop h => simp [h]
  | call imm16 h => simp [h]

/-- Settles O36: an instruction that gives a next state comes to one of the three ends, and each of them redraws. -/
theorem everyExecutionDrawsAnew : Obligations.EveryExecutionDrawsAnew :=
  fun _ _ _ h => (exec_ends h).tick_and_draws

end Sys2Proof.Machine

namespace Sys2Proof.Machine

/-! ## Well-formedness (10_state.md R33) -/

theorem executeAsNop_wf {s : State} (h : s.wf) : (executeAsNop s).wf := h

/-- Whatever value an entry draws for `EL2_ENABLED`, it cannot enable an absent EL2 (log 20), and it leaves the program text. -/
theorem takeException_wf (ev : Event) (e : Entry) {s : State} (h : s.wf) : (takeException ev e s).wf := by
  obtain ⟨_, hmem⟩ := h
  refine ⟨fun hno => ?_, hmem⟩
  rw [takeException_impl] at hno
  rw [takeException_el2Enabled, hno, Bool.and_false]

theorem takeUndefined_wf {s : State} (h : s.wf) : (takeUndefined s).wf := takeException_wf _ _ h

theorem reportCall_wf (imm16 : BitVec 16) (other : BitVec 10) {s : State} (h : s.wf) : (reportCall imm16 other s).wf := h

theorem takeHypervisorCall_wf (imm16 : BitVec 16) {s : State} (h : s.wf) : (takeHypervisorCall imm16 s).wf :=
  takeException_wf _ _ (reportCall_wf _ _ h)

theorem Ends.wf {s t : State} (h : Ends s t) (hs : s.wf) : t.wf := by
  cases h with
  | undefined h => exact h ▸ takeUndefined_wf hs
  | nop h => exact h ▸ executeAsNop_wf hs
  | call imm16 h => exact h ▸ takeHypervisorCall_wf imm16 hs

/-- Settles O33: a step that gives a next state ran an instruction, and each of the three ends keeps well-formedness. -/
theorem stepKeepsWellFormed : Obligations.StepKeepsWellFormed := by
  intro s t hs hstep
  obtain ⟨_, _, _, _, _, hexec⟩ := step_cases hstep
  exact (exec_ends hexec).wf hs

/-- Settles O34: EL2 is implemented at reset, so R33 asks nothing of `EL2_ENABLED`, and no text is loaded. -/
theorem resetIsWellFormed : Obligations.ResetIsWellFormed :=
  ⟨fun hno => absurd hno (by decide), reset_mem_wf⟩

/-! ## Frame (10_state.md R30) -/

@[simp] theorem takeUndefined_raised (s : State) : (takeUndefined s).raised = some .undefined := rfl
@[simp] theorem takeHypervisorCall_raised (imm16 : BitVec 16) (s : State) :
    (takeHypervisorCall imm16 s).raised = some (.hypervisorCall imm16) := rfl

theorem executeAsNop_sameOutsideEntry (s : State) : SameOutsideEntry s (executeAsNop s) := by
  simp [SameOutsideEntry, State.readByte]

theorem takeException_sameOutsideEntry (ev : Event) (e : Entry) (s : State) : SameOutsideEntry s (takeException ev e s) := by
  simp [SameOutsideEntry, State.readByte]

/-- The `HSR` write of the call is outside the frame, so the entry alone decides it. -/
theorem takeHypervisorCall_sameOutsideEntry (imm16 : BitVec 16) (s : State) :
    SameOutsideEntry s (takeHypervisorCall imm16 s) :=
  takeException_sameOutsideEntry _ _ (reportCall imm16 (hvcEntry s).hsrOther s)

theorem Ends.sameOutsideEntry {s t : State} (h : Ends s t) : SameOutsideEntry s t := by
  cases h with
  | undefined h => exact h ▸ takeException_sameOutsideEntry _ _ s
  | nop h => exact h ▸ executeAsNop_sameOutsideEntry s
  | call imm16 h => exact h ▸ takeHypervisorCall_sameOutsideEntry imm16 s

/-- The only end that raises nothing is "executes as NOP" (40_hvc.md R72). -/
theorem Ends.eq_executeAsNop {s t : State} (h : Ends s t) (hr : t.raised = none) : t = executeAsNop s := by
  cases h with
  | undefined h => simp [h] at hr
  | nop h => exact h
  | call imm16 h => simp [h] at hr

theorem executeAsNop_sameEntryControls (s : State) : SameEntryControls s (executeAsNop s) := by
  simp [SameEntryControls]

/-- Settles O31: the three ends share the outer frame, and where nothing is raised the end is the NOP. -/
theorem noOutcomeWritesControlsOrMemory : Obligations.NoOutcomeWritesControlsOrMemory := by
  intro i s t hexec
  have hends := exec_ends hexec
  exact ⟨hends.sameOutsideEntry, fun hr => hends.eq_executeAsNop hr ▸ executeAsNop_sameEntryControls s⟩

/-! ## The condition table (10_state.md R24) -/

/-- Settles O39: each row is the table's own. -/
theorem conditionTableRows : Obligations.ConditionTableRows :=
  fun _ => ⟨rfl, rfl, rfl, rfl, rfl, rfl, rfl, rfl, rfl, rfl, rfl, rfl, rfl, rfl, rfl⟩

/-- The seven pairs of rows below AL: EQ and NE, CS and CC, MI and PL, VS and VC, HI and LS, GE and LT, GT and LE. -/
theorem condHolds_odd_eq_not_even (p : Pstate) (k : Fin 7) :
    condHolds (BitVec.ofNat 4 (2 * k + 1)) p = !condHolds (BitVec.ofNat 4 (2 * k)) p := by
  obtain ⟨eq, ne, cs, cc, mi, pl, vs, vc, hi, ls, ge, lt, gt, le, -⟩ := conditionTableRows p
  have clear_eq_not_set : ∀ b : BitVec 1, (b == 0#1) = !(b == 1#1) := by decide
  match k with
  | 0 => simp [eq, ne, clear_eq_not_set]
  | 1 => simp [cs, cc, clear_eq_not_set]
  | 2 => simp [mi, pl, clear_eq_not_set]
  | 3 => simp [vs, vc, clear_eq_not_set]
  | 4 => simp [hi, ls, clear_eq_not_set]
  | 5 => simp [ge, lt, bne]
  | 6 => simp [gt, le, bne, clear_eq_not_set]

/-- A condition below AL is one member of a pair, and flipping bit 0 gives the other. -/
theorem cond_flip_in_pair : ∀ cond : BitVec 4, cond.toNat < 14 → ∃ k : Fin 7,
    (cond = BitVec.ofNat 4 (2 * k) ∧ cond ^^^ 1#4 = BitVec.ofNat 4 (2 * k + 1)) ∨
    (cond = BitVec.ofNat 4 (2 * k + 1) ∧ cond ^^^ 1#4 = BitVec.ofNat 4 (2 * k)) := by
  decide

/-- Settles O40: the flip goes from one member of a pair of rows to the other, from either side. -/
theorem conditionsComeInOppositePairs : Obligations.ConditionsComeInOppositePairs := by
  intro cond p hlt
  obtain ⟨k, ⟨hcond, hflip⟩ | ⟨hcond, hflip⟩⟩ := cond_flip_in_pair cond hlt
  · rw [hflip, hcond, condHolds_odd_eq_not_even]
  · rw [hflip, hcond, condHolds_odd_eq_not_even, Bool.not_not]

end Sys2Proof.Machine

namespace Sys2Proof

/-! ## Byte order (20_memory.md R36) -/

/-- A T32 instruction is the A32 word with its halfwords exchanged. -/
theorem wordOfBytes_t32_eq_a32_swapped (b0 b1 b2 b3 : Byte) :
    wordOfBytes .t32 b0 b1 b2 b3 = wordOfBytes .a32 b2 b3 b0 b1 := by
  simp only [wordOfBytes]
  rw [BitVec.or_assoc (_ ||| _), BitVec.or_comm, ← BitVec.or_assoc]

theorem placed_byte_toNat (b : Byte) {lo : Nat} (hlo : lo ≤ 24) : (placed b lo).toNat = 2 ^ lo * b.toNat := by
  have hfits : b.toNat * 2 ^ lo < 2 ^ 32 :=
    calc b.toNat * 2 ^ lo < 2 ^ 8 * 2 ^ lo := Nat.mul_lt_mul_of_pos_right b.isLt (Nat.two_pow_pos lo)
      _ ≤ 2 ^ 8 * 2 ^ 24 := Nat.mul_le_mul_left _ (Nat.pow_le_pow_right (by decide) hlo)
  rw [placed, BitVec.toNat_shiftLeft, BitVec.toNat_setWidth_of_le (by decide), Nat.shiftLeft_eq, Nat.mod_eq_of_lt hfits,
    Nat.mul_comm]

/-- A byte placed above all bits of a word adds to it. -/
theorem or_placed_byte_toNat {w : Word} {lo : Nat} (hw : w.toNat < 2 ^ lo) (b : Byte) (hlo : lo ≤ 24) :
    (w ||| placed b lo).toNat = 2 ^ lo * b.toNat + w.toNat := by
  rw [BitVec.toNat_or, placed_byte_toNat b hlo, Nat.or_comm, Nat.two_pow_add_eq_or_of_lt hw]

/-- The little-endian number the four bytes of an A32 word are. -/
theorem wordOfBytes_a32_toNat (b0 b1 b2 b3 : Byte) :
    (wordOfBytes .a32 b0 b1 b2 b3).toNat = b3.toNat * 2 ^ 24 + b2.toNat * 2 ^ 16 + b1.toNat * 2 ^ 8 + b0.toNat := by
  have h0 := placed_byte_toNat b0 (lo := 0) (by decide)
  have h1 := or_placed_byte_toNat (w := placed b0 0) (lo := 8) (by omega) b1 (by decide)
  have h2 := or_placed_byte_toNat (w := placed b0 0 ||| placed b1 8) (lo := 16) (by omega) b2 (by decide)
  have h3 := or_placed_byte_toNat (w := placed b0 0 ||| placed b1 8 ||| placed b2 16) (lo := 24) (by omega) b3 (by decide)
  rw [wordOfBytes, h3, h2, h1, h0]
  ring

/-! ## What the decoder yields (30_encoding.md R51, R52) -/

theorem decode_iset_and_wf {iset : ISet} {w : Word} {i : Instr} (h : decode iset w = .instr i) :
    i.iset = iset ∧ i.wf = true := by
  cases iset <;> simp only [decode] at h <;> split at h
  case a32.isTrue hw =>
    cases h
    exact ⟨rfl, bne_iff_ne.2 hw.2⟩
  case t32.isTrue =>
    cases h
    exact ⟨rfl, rfl⟩
  all_goals cases h

theorem decodeBytes_iset_and_wf {iset : ISet} {bs : List Byte} {i : Instr} (h : decodeBytes iset bs = .instr i) :
    i.iset = iset ∧ i.wf = true := by
  unfold decodeBytes at h
  split at h
  · exact decode_iset_and_wf h
  · cases h

end Sys2Proof

namespace Sys2Proof.Machine

/-! ## Fetch and step (20_memory.md R35, R37) -/

theorem aligned_a32_iff (pc : Word) : aligned .a32 pc = true ↔ pc.toNat % 4 = 0 := by
  simp [aligned, ← BitVec.toNat_inj]

theorem aligned_t32_iff (pc : Word) : aligned .t32 pc = true ↔ pc.toNat % 2 = 0 := by
  simp [aligned, ← BitVec.toNat_inj]

theorem step_of_not_aligned {s : State} (h : ¬ aligned s.pstate.iset s.pc = true) :
    step s = .refused (.misalignedPc s.pstate.iset s.pc) := if_neg h

/-- An instruction the decoder can yield is refused in one case only: T1 in an IT block (40_hvc.md R63). -/
theorem exec_next_iff {i : Instr} (hwf : i.wf = true) (s : State) :
    (∃ t, exec i s = .next t) ↔ ¬ (i.iset = .t32 ∧ s.pstate.inItBlock = true) := by
  cases i with
  | hvcA1 cond imm12 imm4 =>
    have hcond : cond ≠ 0b1111#4 := bne_iff_ne.1 hwf
    simp [exec, execHvcA1, hcond, Instr.iset]
  | hvcT1 imm4 imm12 =>
    cases hit : s.pstate.inItBlock <;> simp [exec, execHvcT1, hit, Instr.iset]

/-- Settles O9: each test `step` makes before `exec` is one of the hypotheses. -/
theorem stepRunsTheDecodedInstruction : Obligations.StepRunsTheDecodedInstruction := by
  intro s bs i hal hbs hi
  simp only [step, hal, hbs, hi, if_true]

/-- Settles O10: the fetch reads the four addresses in order, and the two layouts differ in the order of the halfwords only. -/
theorem fetchIsLittleEndian : Obligations.FetchIsLittleEndian := by
  refine ⟨fun s b0 b1 b2 b3 h0 h1 h2 h3 => ?_, fun b0 b1 b2 b3 => ?_, fun b0 b1 b2 b3 => ?_⟩
  · simp only [fetchBytes, h0, h1, h2, h3]
  · rw [← wordOfBytes_a32_toNat, BitVec.ofNat_toNat, BitVec.setWidth_eq]
    rfl
  · have hsum : (b1.toNat * 2 ^ 8 + b0.toNat) * 2 ^ 16 + (b3.toNat * 2 ^ 8 + b2.toNat) =
        (wordOfBytes .t32 b0 b1 b2 b3).toNat := by
      rw [wordOfBytes_t32_eq_a32_swapped, wordOfBytes_a32_toNat]
      ring
    rw [hsum, BitVec.ofNat_toNat, BitVec.setWidth_eq]
    rfl

/-- Settles O11: the alignment test, which `step` makes first, is divisibility of `pc`. -/
theorem misalignedPcIsRefused : Obligations.MisalignedPcIsRefused := by
  refine fun s => ⟨fun hset hpc => ?_, fun hset hpc => ?_⟩
  · rw [← hset]
    exact step_of_not_aligned (by rwa [hset, aligned_a32_iff])
  · rw [← hset]
    exact step_of_not_aligned (by rwa [hset, aligned_t32_iff])

/-- Settles O13: a step is `exec` of what the bytes at an aligned `pc` decode to, and the decoder yields only well-formed
instructions of the current instruction set, which `exec` refuses in an IT block only. -/
theorem stepGoesOnExceptWhereTheSpecRefuses : Obligations.StepGoesOnExceptWhereTheSpecRefuses := by
  intro s
  constructor
  · rintro ⟨t, hstep⟩
    obtain ⟨bs, i, hal, hbs, hi, hexec⟩ := step_cases hstep
    obtain ⟨hiset, hwf⟩ := decodeBytes_iset_and_wf hi
    exact ⟨hal, ⟨bs, i, hbs, hi⟩, hiset ▸ (exec_next_iff hwf s).1 ⟨t, hexec⟩⟩
  · rintro ⟨hal, ⟨bs, i, hbs, hi⟩, hit⟩
    obtain ⟨hiset, hwf⟩ := decodeBytes_iset_and_wf hi
    rw [stepRunsTheDecodedInstruction s bs i hal hbs hi]
    exact (exec_next_iff hwf s).2 (hiset.symm ▸ hit)

end Sys2Proof.Machine

namespace Sys2Proof

/-! ## Fields and masks of a word (30_encoding.md R47, R48) -/

/-- Cutting a field out and putting it back is masking the word with the field's box. -/
theorem placed_extractLsb' (w : Word) (lo n : Nat) :
    placed (w.extractLsb' lo n) lo = w &&& placed (BitVec.allOnes n) lo := by
  ext k hk
  by_cases hlo : k < lo
  · simp [placed, hlo]
  · have hbox : lo + (k - lo) = k := by omega
    simp [placed, hlo, hbox, BitVec.getLsbD_eq_getElem hk, Bool.and_comm]

/-- A field that a mask covers whole has the value its box has in the pattern. -/
theorem extractLsb'_of_and_eq {w mask pattern : Word} (hw : w &&& mask = pattern) {lo n : Nat}
    (hbox : mask.extractLsb' lo n = BitVec.allOnes n) : w.extractLsb' lo n = pattern.extractLsb' lo n := by
  rw [← hw, BitVec.extractLsb'_and, hbox, BitVec.and_allOnes]

/-- The two halfwords determine the word (R46: T1 is `hw1:hw2`). -/
theorem eq_iff_halfwords_eq (x y : Word) :
    x = y ↔ x.extractLsb' 16 16 = y.extractLsb' 16 16 ∧ x.extractLsb' 0 16 = y.extractLsb' 0 16 := by
  refine ⟨fun h => h ▸ ⟨rfl, rfl⟩, fun ⟨hhigh, hlow⟩ => ?_⟩
  have split (w : BitVec (16 + 16)) : w.extractLsb' 16 16 ++ w.extractLsb' 0 16 = w :=
    BitVec.extractLsb'_append_extractLsb'
  calc x = x.extractLsb' 16 16 ++ x.extractLsb' 0 16 := (split x).symm
    _ = y.extractLsb' 16 16 ++ y.extractLsb' 0 16 := by rw [hhigh, hlow]
    _ = y := split y

/-- A field as a number. -/
theorem toNat_of_extractLsb'_eq {w : Word} {lo n : Nat} {field : BitVec n} (h : w.extractLsb' lo n = field) :
    w.toNat / 2 ^ lo % 2 ^ n = field.toNat := by
  rw [← h, BitVec.extractLsb'_toNat, Nat.shiftRight_eq_div_pow]

/-! ## The fixed bits of an encoded word -/

/-- Every encoding puts its fixed bits where the decoder's mask looks for them. -/
theorem encode_and_fixedMask (i : Instr) : encode i &&& fixedMask i.iset = fixedBits i.iset :=
  match i with
  | .hvcA1 cond imm12 imm4 => Laws.FixedBits.hvcA1 cond imm12 imm4
  | .hvcT1 imm4 imm12 => Laws.FixedBits.hvcT1 imm4 imm12

/-- A box of a diagram that lies in the fixed bits holds their value. -/
theorem encode_fixed_box (iset : ISet) {i : Instr} (hset : i.iset = iset) {lo n : Nat}
    (hbox : (fixedMask iset).extractLsb' lo n = BitVec.allOnes n) :
    (encode i).extractLsb' lo n = (fixedBits iset).extractLsb' lo n :=
  extractLsb'_of_and_eq (hset ▸ encode_and_fixedMask i) hbox

/-! ## What the decoder accepts (R51) -/

theorem decode_a32_eq_instr_iff (w : Word) (i : Instr) :
    decode .a32 w = .instr i ↔ (w &&& fixedMask .a32 = fixedBits .a32 ∧ w.extractLsb' 28 4 ≠ 0b1111#4) ∧
      i = .hvcA1 (w.extractLsb' 28 4) (w.extractLsb' 8 12) (w.extractLsb' 0 4) := by
  simp only [decode]
  split
  · rename_i hw
    simp [hw, eq_comm]
  · rename_i hw
    simp [hw]

theorem decode_t32_eq_instr_iff (w : Word) (i : Instr) :
    decode .t32 w = .instr i ↔ w &&& fixedMask .t32 = fixedBits .t32 ∧
      i = .hvcT1 (w.extractLsb' 16 4) (w.extractLsb' 0 12) := by
  simp only [decode]
  split
  · rename_i hw
    simp [hw, eq_comm]
  · rename_i hw
    simp [hw]

theorem exists_decode_a32_iff (w : Word) :
    (∃ i, decode .a32 w = .instr i) ↔ w &&& fixedMask .a32 = fixedBits .a32 ∧ w.extractLsb' 28 4 ≠ 0b1111#4 := by
  simp only [decode_a32_eq_instr_iff, exists_and_left, exists_eq, and_true]

theorem exists_decode_t32_iff (w : Word) :
    (∃ i, decode .t32 w = .instr i) ↔ w &&& fixedMask .t32 = fixedBits .t32 := by
  simp only [decode_t32_eq_instr_iff, exists_and_left, exists_eq, and_true]

/-! ## Encoding and decoding are inverse (R59) -/

/-- The fixed bits and the fields of an encoded instruction are what the decoder looks for. -/
theorem decode_encode {i : Instr} (hwf : i.wf = true) : decode i.iset (encode i) = .instr i := by
  cases i with
  | hvcA1 cond imm12 imm4 =>
    obtain ⟨hcond, himm12, himm4⟩ := encode_hvcA1_fields cond imm12 imm4
    have hne : cond ≠ 0b1111#4 := bne_iff_ne.1 hwf
    exact (decode_a32_eq_instr_iff ..).2
      ⟨⟨encode_and_fixedMask (.hvcA1 cond imm12 imm4), hcond.symm ▸ hne⟩, by rw [hcond, himm12, himm4]⟩
  | hvcT1 imm4 imm12 =>
    obtain ⟨himm4, himm12⟩ := encode_hvcT1_fields imm4 imm12
    exact (decode_t32_eq_instr_iff ..).2 ⟨encode_and_fixedMask (.hvcT1 imm4 imm12), by rw [himm4, himm12]⟩

/-- The boxes of the A1 diagram cover the word: the fixed bits and the three fields give it back. -/
theorem encode_hvcA1_of_fields {w : Word} (hw : w &&& fixedMask .a32 = fixedBits .a32) :
    encode (.hvcA1 (w.extractLsb' 28 4) (w.extractLsb' 8 12) (w.extractLsb' 0 4)) = w := by
  have hcover : placed (BitVec.allOnes 4) 28 ||| fixedMask .a32 ||| placed (BitVec.allOnes 12) 8 |||
      placed (BitVec.allOnes 4) 0 = BitVec.allOnes 32 := by decide
  simp only [encode, placed_extractLsb', ← hw, ← BitVec.and_or_distrib_left]
  rw [hcover, BitVec.and_allOnes]

/-- The boxes of the T1 diagram cover the word: the fixed bits and the two fields give it back. -/
theorem encode_hvcT1_of_fields {w : Word} (hw : w &&& fixedMask .t32 = fixedBits .t32) :
    encode (.hvcT1 (w.extractLsb' 16 4) (w.extractLsb' 0 12)) = w := by
  have hcover : fixedMask .t32 ||| placed (BitVec.allOnes 4) 16 ||| placed (BitVec.allOnes 12) 0 = BitVec.allOnes 32 := by
    decide
  simp only [encode, placed_extractLsb', ← hw, ← BitVec.and_or_distrib_left]
  rw [hcover, BitVec.and_allOnes]

theorem encode_of_decode {iset : ISet} {w : Word} {i : Instr} (h : decode iset w = .instr i) : encode i = w := by
  cases iset with
  | a32 =>
    obtain ⟨⟨hw, _⟩, rfl⟩ := (decode_a32_eq_instr_iff w i).1 h
    exact encode_hvcA1_of_fields hw
  | t32 =>
    obtain ⟨hw, rfl⟩ := (decode_t32_eq_instr_iff w i).1 h
    exact encode_hvcT1_of_fields hw

/-- Settles O1: the decoder finds the fixed bits and the fields where the encoder puts them, and the bytes of the word are the
word again. -/
theorem decodeOfEncodeIsTheInstruction : Obligations.DecodeOfEncodeIsTheInstruction :=
  fun i hwf => ⟨decode_encode hwf, (decodeBytes_bytesOfWord i.iset (encode i)).trans (decode_encode hwf)⟩

/-- Settles O2: the boxes of a diagram cover the word, and a second instruction with the same word would be decoded from it. -/
theorem encodeOfDecodeIsTheWord : Obligations.EncodeOfDecodeIsTheWord := by
  intro iset w i h
  obtain ⟨hiset, hwf⟩ := decode_iset_and_wf h
  refine ⟨hwf, hiset, encode_of_decode h, fun j hjwf hjset hjw => ?_⟩
  have hj := decode_encode hjwf
  rw [hjset, hjw, h] at hj
  exact (Decoded.instr.inj hj).symm

/-- Settles O3: the two patterns are the definition's, with the masks written out. -/
theorem decoderAcceptsExactlyTheTwoPatterns : Obligations.DecoderAcceptsExactlyTheTwoPatterns :=
  ⟨fun _ => rfl, fun _ => rfl⟩

/-- Settles O4: seven closed words, evaluated. -/
theorem writtenOutWordsDecode : Obligations.WrittenOutWordsDecode := by
  unfold Obligations.WrittenOutWordsDecode
  decide

/-! ## The diagrams and the masks (R47, R48) -/

/-- Masking with the condition beside the fixed bits: the A1 words with `cond` 1110. -/
theorem exists_decode_a32_cond_1110_iff (w : Word) :
    (∃ imm12 imm4, decode .a32 w = .instr (.hvcA1 0b1110#4 imm12 imm4)) ↔ w &&& 0xFFF000F0#32 = 0xE1400070#32 := by
  have hmask : fixedMask .a32 ||| placed (BitVec.allOnes 4) 28 = 0xFFF000F0#32 := by decide
  constructor
  · rintro ⟨imm12, imm4, h⟩
    obtain ⟨⟨hw, _⟩, hi⟩ := (decode_a32_eq_instr_iff _ _).1 h
    obtain ⟨hcond, -, -⟩ := Instr.hvcA1.inj hi
    rw [← hmask, BitVec.and_or_distrib_left, hw, ← placed_extractLsb', ← hcond]
    decide
  · intro hw
    have hcond : w.extractLsb' 28 4 = 0b1110#4 := extractLsb'_of_and_eq hw (by decide)
    have hfixed : w &&& fixedMask .a32 = fixedBits .a32 :=
      calc w &&& fixedMask .a32 = w &&& 0xFFF000F0#32 &&& fixedMask .a32 := by rw [BitVec.and_assoc]; rfl
        _ = fixedBits .a32 := by rw [hw]; decide
    exact ⟨_, _, (decode_a32_eq_instr_iff _ _).2 ⟨⟨hfixed, by rw [hcond]; decide⟩, by rw [hcond]⟩⟩

/-- The T1 pattern in its two halfwords. -/
theorem fixedBits_t32_iff_halfwords (w : Word) :
    w &&& fixedMask .t32 = fixedBits .t32 ↔
      w.extractLsb' 16 16 &&& 0xFFF0#16 = 0xF7E0#16 ∧ w.extractLsb' 0 16 &&& 0xF000#16 = 0x8000#16 := by
  rw [eq_iff_halfwords_eq, BitVec.extractLsb'_and, BitVec.extractLsb'_and]
  rfl

/-- `hw1 = 0xF7E0 | imm4` and `hw2 = 0x8000 | imm12` (R48). -/
theorem encode_hvcT1_halfwords (imm4 : BitVec 4) (imm12 : BitVec 12) :
    (encode (.hvcT1 imm4 imm12)).extractLsb' 16 16 = 0xF7E0#16 ||| imm4.setWidth 16 ∧
      (encode (.hvcT1 imm4 imm12)).extractLsb' 0 16 = 0x8000#16 ||| imm12.setWidth 16 := by
  simp only [encode, placed, fixedBits]
  constructor <;> (ext k hk; interval_cases k <;> simp)

/-- Settles O41: each box is a field or lies in the fixed bits, and the masks are the decoder's. -/
theorem wordsAreLaidOutAsTheDiagrams : Obligations.WordsAreLaidOutAsTheDiagrams := by
  refine ⟨fun cond imm12 imm4 => ?_, exists_decode_a32_iff, exists_decode_a32_cond_1110_iff, fun imm4 imm12 => ?_,
    exists_decode_t32_iff, fun w => (exists_decode_t32_iff w).trans (fixedBits_t32_iff_halfwords w)⟩
  · obtain ⟨hcond, himm12, himm4⟩ := encode_hvcA1_fields cond imm12 imm4
    exact ⟨_, rfl, hcond, encode_fixed_box .a32 rfl (by decide), encode_fixed_box .a32 rfl (by decide),
      encode_fixed_box .a32 rfl (by decide), himm12, encode_fixed_box .a32 rfl (by decide), himm4,
      by simp [encode, placed, fixedBits]⟩
  · obtain ⟨himm4, himm12⟩ := encode_hvcT1_fields imm4 imm12
    obtain ⟨hhw1, hhw2⟩ := encode_hvcT1_halfwords imm4 imm12
    exact ⟨_, rfl, encode_fixed_box .t32 rfl (by decide), encode_fixed_box .t32 rfl (by decide), himm4,
      encode_fixed_box .t32 rfl (by decide), encode_fixed_box .t32 rfl (by decide), encode_fixed_box .t32 rfl (by decide),
      himm12, hhw1, hhw2⟩

/-! ## The word as a number (R59) -/

theorem encode_hvcA1_toNat (cond : BitVec 4) (imm12 : BitVec 12) (imm4 : BitVec 4) :
    (encode (.hvcA1 cond imm12 imm4)).toNat = cond.toNat * 2 ^ 28 + 0x01400070 + imm12.toNat * 2 ^ 8 + imm4.toNat := by
  obtain ⟨hcond, himm12, himm4⟩ := encode_hvcA1_fields cond imm12 imm4
  have h31_28 := toNat_of_extractLsb'_eq hcond
  have h27_20 : _ / 2 ^ 20 % 2 ^ 8 = 0x14 :=
    toNat_of_extractLsb'_eq (encode_fixed_box .a32 (i := .hvcA1 cond imm12 imm4) rfl (by decide))
  have h19_8 := toNat_of_extractLsb'_eq himm12
  have h7_4 : _ / 2 ^ 4 % 2 ^ 4 = 0x7 :=
    toNat_of_extractLsb'_eq (encode_fixed_box .a32 (i := .hvcA1 cond imm12 imm4) rfl (by decide))
  have h3_0 := toNat_of_extractLsb'_eq himm4
  omega

theorem encode_hvcT1_toNat (imm4 : BitVec 4) (imm12 : BitVec 12) :
    (encode (.hvcT1 imm4 imm12)).toNat = 0xF7E08000 + imm4.toNat * 2 ^ 16 + imm12.toNat := by
  obtain ⟨himm4, himm12⟩ := encode_hvcT1_fields imm4 imm12
  have h31_20 : _ / 2 ^ 20 % 2 ^ 12 = 0xF7E :=
    toNat_of_extractLsb'_eq (encode_fixed_box .t32 (i := .hvcT1 imm4 imm12) rfl (by decide))
  have h19_16 := toNat_of_extractLsb'_eq himm4
  have h15_12 : _ / 2 ^ 12 % 2 ^ 4 = 0x8 :=
    toNat_of_extractLsb'_eq (encode_fixed_box .t32 (i := .hvcT1 imm4 imm12) rfl (by decide))
  have h11_0 := toNat_of_extractLsb'_eq himm12
  omega

end Sys2Proof

namespace Sys2Proof.Machine

/-! ## The immediate (30_encoding.md R49, R50, R57, R59) -/

theorem a1Imm16_of_fields (v : BitVec 16) : a1Imm16 (v.extractLsb' 4 12) (v.extractLsb' 0 4) = v :=
  BitVec.extractLsb'_append_extractLsb'

theorem t1Imm16_of_fields (v : BitVec 16) : t1Imm16 (v.extractLsb' 12 4) (v.extractLsb' 0 12) = v :=
  BitVec.extractLsb'_append_extractLsb'

/-- Settles O5: the fields are bits of the word, and the split of a value encodes to a word with that immediate. -/
theorem immediateOfAnA1Word : Obligations.ImmediateOfAnA1Word := by
  refine ⟨fun w cond imm12 imm4 h => ?_, fun v => ?_⟩
  · obtain ⟨_, hi⟩ := (decode_a32_eq_instr_iff _ _).1 h
    obtain ⟨_, rfl, rfl⟩ := Instr.hvcA1.inj hi
    rw [a1Imm16_toNat, BitVec.extractLsb'_toNat, BitVec.extractLsb'_toNat, Nat.shiftRight_eq_div_pow, Nat.shiftRight_zero]
  · exact ⟨_, _, _, decode_encode (i := .hvcA1 0b1110#4 (v.extractLsb' 4 12) (v.extractLsb' 0 4)) rfl, a1Imm16_of_fields v⟩

/-- Settles O6: the fields are bits of the word, and the split of a value encodes to a word with that immediate. -/
theorem immediateOfAT1Word : Obligations.ImmediateOfAT1Word := by
  refine ⟨fun w imm4 imm12 h => ?_, fun v => ?_⟩
  · obtain ⟨_, hi⟩ := (decode_t32_eq_instr_iff _ _).1 h
    obtain ⟨rfl, rfl⟩ := Instr.hvcT1.inj hi
    rw [t1Imm16_toNat, BitVec.extractLsb'_toNat, BitVec.extractLsb'_toNat, Nat.shiftRight_eq_div_pow, Nat.shiftRight_zero]
  · exact ⟨_, _, _, decode_encode (i := .hvcT1 (v.extractLsb' 12 4) (v.extractLsb' 0 12)) rfl, t1Imm16_of_fields v⟩

/-- Settles O7: as numbers, `imm12 * 16 + imm4 = imm4 * 4096 + imm12` says `15 * imm12 = 15 * (273 * imm4)`. -/
theorem splitsAgreeOnlyOnRepeatedDigit : Obligations.SplitsAgreeOnlyOnRepeatedDigit := by
  intro imm12 imm4
  rw [← BitVec.toNat_inj, a1Imm16_toNat, t1Imm16_toNat]
  omega

theorem ofNat_extractLsb'_toNat {n : Nat} (hn : n < 65536) (lo len : Nat) :
    ((BitVec.ofNat 16 n).extractLsb' lo len).toNat = n / 2 ^ lo % 2 ^ len := by
  rw [BitVec.extractLsb'_toNat, BitVec.toNat_ofNat, Nat.mod_eq_of_lt hn, Nat.shiftRight_eq_div_pow]

/-- Settles O8: the assembler cuts the number into the fields of the encoding; the disassembler joins them again. -/
theorem everyImmediateAssemblesToItsWord : Obligations.EveryImmediateAssemblesToItsWord := by
  refine fun iset n => ⟨fun hn => ?_, fun hn => if_neg (Nat.not_lt.2 hn)⟩
  have htoNat : (BitVec.ofNat 16 n).toNat = n := by rw [BitVec.toNat_ofNat, Nat.mod_eq_of_lt hn]
  cases iset with
  | a32 =>
    refine ⟨_, if_pos hn, rfl, decode_encode (i := .hvcA1 _ _ _) rfl, ?_, ?_⟩
    · rw [disassemble, if_pos rfl, a1Imm16_of_fields, htoNat]
    · rw [encode_hvcA1_toNat, ofNat_extractLsb'_toNat hn, ofNat_extractLsb'_toNat hn]
      simp only [BitVec.toNat_ofNat]
      omega
  | t32 =>
    refine ⟨_, if_pos hn, rfl, decode_encode (i := .hvcT1 _ _) rfl, ?_, ?_⟩
    · rw [disassemble, t1Imm16_of_fields, htoNat]
    · rw [encode_hvcT1_toNat, ofNat_extractLsb'_toNat hn, ofNat_extractLsb'_toNat hn]
      simp only
      omega

/-! ## Words that are no HVC (R52, R55) -/

/-- Settles O12: past the alignment test, the two refusals are the two other answers of fetch and decode. -/
theorem wordsThatAreNotHvcAreRefused : Obligations.WordsThatAreNotHvcAreRefused := by
  refine fun s hal => ⟨fun bs hbs hnot => ?_, fun hnone => ?_⟩
  · simp only [step, hal, hbs, hnot, if_true]
  · simp only [step, hal, hnone, if_true]

/-- Settles O24: the decoder tests `cond`, and so does the meaning. -/
theorem a1WithCond1111IsNoHvc : Obligations.A1WithCond1111IsNoHvc :=
  ⟨fun _ hcond => if_neg fun hw => hw.2 hcond, fun _ _ _ => rfl⟩

end Sys2Proof.Machine

namespace Sys2Proof.Machine

/-! ## The Operation in its states (40_hvc.md R65, R66, R67, R74) -/

theorem hvcExecute_of_level (imm16 : BitVec 16) {s : State}
    (h : s.pstate.el = Config.el0 ∨ s.pstate.el = Config.el3 ∨ s.el2Enabled = false) :
    hvcExecute imm16 s = takeUndefined s := if_pos h

theorem not_callPermitted_of_level {s : State}
    (h : s.pstate.el = Config.el0 ∨ s.pstate.el = Config.el3 ∨ s.el2Enabled = false) : ¬ CallPermitted s := by
  rintro ⟨hel | hel, hen, -⟩ <;> simp [hel, hen] at h

theorem not_hypHceClear_of_level {s : State}
    (h : s.pstate.el = Config.el0 ∨ s.pstate.el = Config.el3 ∨ s.el2Enabled = false) : ¬ HypHceClear s := by
  rintro ⟨hel, hen, -⟩
  simp [hel, hen] at h

/-- In the constrained case the one enable bit that applies is clear, so the call is not permitted there. -/
theorem HypHceClear.not_callPermitted {s : State} (h : HypHceClear s) : ¬ CallPermitted s := by
  obtain ⟨-, -, h3, h3a32, hce⟩ := h
  rintro ⟨-, -, hset, -⟩
  simp [hset h3 h3a32] at hce

theorem hvcExecute_of_callPermitted (imm16 : BitVec 16) {s : State} (h : CallPermitted s) :
    hvcExecute imm16 s = takeHypervisorCall imm16 s := by
  rcases hvcExecute_cases imm16 s with ⟨hlevel, _⟩ | ⟨hhyp, _⟩ | ⟨hnot, _, _⟩ | ⟨_, heq⟩
  · exact absurd h (not_callPermitted_of_level hlevel)
  · exact absurd h hhyp.not_callPermitted
  · exact absurd h hnot
  · exact heq

theorem hvcExecute_of_hypHceClear (imm16 : BitVec 16) {s : State} (h : HypHceClear s) :
    hvcExecute imm16 s = hypHceClearOutcome s.draws.hypHce0 s := by
  rcases hvcExecute_cases imm16 s with ⟨hlevel, _⟩ | ⟨_, heq⟩ | ⟨_, hnot, _⟩ | ⟨hcall, _⟩
  · exact absurd h (not_hypHceClear_of_level hlevel)
  · exact heq
  · exact absurd h hnot
  · exact absurd hcall h.not_callPermitted

theorem hvcExecute_of_neither (imm16 : BitVec 16) {s : State} (hcall : ¬ CallPermitted s) (hhyp : ¬ HypHceClear s) :
    hvcExecute imm16 s = takeUndefined s := by
  rcases hvcExecute_cases imm16 s with ⟨_, heq⟩ | ⟨h, _⟩ | ⟨_, _, heq⟩ | ⟨h, _⟩
  · exact heq
  · exact absurd h hhyp
  · exact heq
  · exact absurd h hcall

/-! ## The outcomes of R60, of each end -/

/-- A NOP is what R72 says: `pc + 4`, no event, and only the free values move on. -/
theorem executeAsNop_eq (s : State) :
    executeAsNop s = { s with
      pc := s.pc + 4#32, raised := none, draws := (executeAsNop s).draws, tick := (executeAsNop s).tick } := rfl

@[simp] theorem takesHypervisorCall_next (t : State) (imm16 : BitVec 16) :
    TakesHypervisorCall (.next t) imm16 ↔ t.raised = some (.hypervisorCall imm16) := by
  simp [TakesHypervisorCall]

@[simp] theorem takesUndefined_next (t : State) : TakesUndefined (.next t) ↔ t.raised = some .undefined := by
  simp [TakesUndefined]

theorem takesHypervisorCall_takeHypervisorCall (imm16 : BitVec 16) (s : State) :
    TakesHypervisorCall (.next (takeHypervisorCall imm16 s)) imm16 := ⟨_, rfl, rfl⟩

theorem takesUndefined_takeUndefined (s : State) : TakesUndefined (.next (takeUndefined s)) := ⟨_, rfl, rfl⟩

theorem runsAsNop_executeAsNop (s : State) : RunsAsNop (.next (executeAsNop s)) s := ⟨_, rfl, executeAsNop_eq s⟩

theorem RunsAsNop.raised_eq_none {s t : State} (h : RunsAsNop (.next t) s) : t.raised = none := by
  obtain ⟨t', hnext, heq⟩ := h
  rw [Host.Outcome.next.inj hnext, heq]

/-! A refusal is none of the three outcomes. -/

@[simp] theorem not_takesHypervisorCall_refused (r : Refusal) (imm16 : BitVec 16) :
    ¬ TakesHypervisorCall (.refused r) imm16 := by simp [TakesHypervisorCall]
@[simp] theorem not_takesUndefined_refused (r : Refusal) : ¬ TakesUndefined (.refused r) := by simp [TakesUndefined]
@[simp] theorem not_runsAsNop_refused (r : Refusal) (s : State) : ¬ RunsAsNop (.refused r) s := by simp [RunsAsNop]

theorem Ends.outcome {s t : State} (h : Ends s t) :
    (∃ imm16, TakesHypervisorCall (.next t) imm16) ∨ TakesUndefined (.next t) ∨ RunsAsNop (.next t) s := by
  cases h with
  | undefined h => exact .inr (.inl (h ▸ takesUndefined_takeUndefined s))
  | nop h => exact .inr (.inr (h ▸ runsAsNop_executeAsNop s))
  | call imm16 h => exact .inl ⟨imm16, h ▸ takesHypervisorCall_takeHypervisorCall imm16 s⟩

/-! ## Each form, by its Decode (40_hvc.md R61, R62, R63) -/

theorem exec_hvcT1_of_inItBlock (imm4 : BitVec 4) (imm12 : BitVec 12) {s : State} (h : s.pstate.inItBlock = true) :
    exec (.hvcT1 imm4 imm12) s = .refused .hvcT1InItBlock := if_pos h

theorem exec_hvcT1_outside_itBlock (imm4 : BitVec 4) (imm12 : BitVec 12) {s : State} (h : s.pstate.inItBlock = false) :
    exec (.hvcT1 imm4 imm12) s = .next (hvcExecute (t1Imm16 imm4 imm12) s) :=
  exec_reaches (i := .hvcT1 imm4 imm12) ⟨h, rfl⟩

theorem exec_hvcA1_al (imm12 : BitVec 12) (imm4 : BitVec 4) (s : State) :
    exec (.hvcA1 0b1110#4 imm12 imm4) s = .next (hvcExecute (a1Imm16 imm12 imm4) s) :=
  exec_reaches (i := .hvcA1 0b1110#4 imm12 imm4) ⟨rfl, rfl⟩

theorem exec_hvcA1_conditional {cond : BitVec 4} (imm12 : BitVec 12) (imm4 : BitVec 4) (s : State) (hal : cond ≠ 0b1110#4)
    (hnv : cond ≠ 0b1111#4) :
    exec (.hvcA1 cond imm12 imm4) s = .next (a1CondCu s.draws.a1Cond cond (a1Imm16 imm12 imm4) s) := by
  simp only [exec, execHvcA1, if_neg hal, if_neg hnv]

/-- The NOP of R62: A1 with a condition other than AL, drawn as NOP or drawn as conditional with the condition failing. -/
def ConditionalNop (i : Instr) (s : State) : Prop :=
  ∃ cond imm12 imm4, i = .hvcA1 cond imm12 imm4 ∧ cond ≠ 0b1110#4 ∧
    (s.draws.a1Cond = .nop ∨ s.draws.a1Cond = .cond ∧ condHolds cond s.pstate = false)

/-- Where each next state comes from: the Operation, or a draw of R62 that does not run it. -/
theorem exec_next_cases {i : Instr} {s t : State} (h : exec i s = .next t) :
    (∃ imm16, t = hvcExecute imm16 s) ∨ t = takeUndefined s ∨ (ConditionalNop i s ∧ t = executeAsNop s) := by
  cases i with
  | hvcA1 cond imm12 imm4 =>
    by_cases hnv : cond = 0b1111#4
    · simp [exec, execHvcA1, hnv] at h
    by_cases hal : cond = 0b1110#4
    · rw [hal, exec_hvcA1_al] at h
      exact .inl ⟨_, (Host.Outcome.next.inj h).symm⟩
    rw [exec_hvcA1_conditional imm12 imm4 s hal hnv] at h
    obtain rfl := Host.Outcome.next.inj h
    cases hk : s.draws.a1Cond with
    | undef => exact .inr (.inl rfl)
    | nop => exact .inr (.inr ⟨⟨cond, imm12, imm4, rfl, hal, .inl hk⟩, rfl⟩)
    | uncond => exact .inl ⟨_, rfl⟩
    | cond =>
      cases hc : condHolds cond s.pstate with
      | true => exact .inl ⟨a1Imm16 imm12 imm4, by simp [a1CondCu, hc]⟩
      | false => exact .inr (.inr ⟨⟨cond, imm12, imm4, rfl, hal, .inr ⟨hk, hc⟩⟩, by simp [a1CondCu, hc]⟩)
  | hvcT1 imm4 imm12 =>
    cases hit : s.pstate.inItBlock with
    | true => simp [exec_hvcT1_of_inItBlock imm4 imm12 hit] at h
    | false =>
      rw [exec_hvcT1_outside_itBlock imm4 imm12 hit] at h
      exact .inl ⟨_, (Host.Outcome.next.inj h).symm⟩

/-! ## The outcomes of the Operation and of every form -/

/-- Settles O14: the tests of the Operation are those of R65, in the same order. -/
theorem operationRunsInSourceOrder : Obligations.OperationRunsInSourceOrder := by
  intro i imm16 s hreach
  refine ⟨_, exec_reaches hreach, ?_⟩
  have hlines2and3 : hypHceClear s = true ↔
      s.impl.haveEl3 = true ∧ s.el3A32 = true ∧ s.scrHce = 0#1 ∧ s.pstate.el = 0b10#2 := hypHceClear_iff s
  have hlines2to8 : hvcEnable s = if s.impl.haveEl3 then (if s.el3A32 then s.scrHce else s.scrEl3Hce)
      else (if s.el2A32 then ~~~s.hcrHcd else ~~~s.hcrEl2Hcd) := rfl
  simp only [← hlines2to8, ← hlines2and3, hvcExecute]
  split_ifs with hlevel hhyp henable
  · rfl
  · cases s.draws.hypHce0 <;> rfl
  · rfl
  · exact ⟨rfl, rfl, rfl⟩

/-- Settles O15: a next state is one of the three ends, and a well-formed HVC is refused only as T1 in an IT block. -/
theorem everyHvcEndsInAListedOutcome : Obligations.EveryHvcEndsInAListedOutcome := by
  intro i s hwf
  by_cases hnext : ∃ t, exec i s = .next t
  · obtain ⟨t, ht⟩ := hnext
    rw [ht]
    rcases (exec_ends ht).outcome with h | h | h
    · exact .inl h
    · exact .inr (.inl h)
    · exact .inr (.inr (.inl h))
  · obtain ⟨hset, hit⟩ := not_not.1 (mt (exec_next_iff hwf s).2 hnext)
    cases i with
    | hvcA1 cond imm12 imm4 => cases hset
    | hvcT1 imm4 imm12 => exact .inr (.inr (.inr ⟨exec_hvcT1_of_inItBlock imm4 imm12 hit, hset, hit⟩))

/-- Settles O21: the meaning of a conditional A1 is a choice by the draw. -/
theorem conditionalA1TakesTheDrawnBehaviour : Obligations.ConditionalA1TakesTheDrawnBehaviour := by
  intro cond imm12 imm4 s hal hnv
  refine ⟨_, exec_hvcA1_conditional imm12 imm4 s hal hnv, ?_⟩
  cases s.draws.a1Cond with
  | undef => rfl
  | nop => exact executeAsNop_eq s
  | uncond => exact exec_hvcA1_al imm12 imm4 s
  | cond =>
    simp only [a1CondCu]
    split
    · exact exec_hvcA1_al imm12 imm4 s
    · exact executeAsNop_eq s

theorem hypHceClearOutcome_raised_ne_call (k : CuHypHce0) (s : State) (imm16 : BitVec 16) :
    (hypHceClearOutcome k s).raised ≠ some (.hypervisorCall imm16) := by
  cases k <;> simp [hypHceClearOutcome]

/-- Settles O22: in the constrained case the Operation is the draw's outcome, and no other path of any form calls. -/
theorem hypModeWithHceClearNeverCalls : Obligations.HypModeWithHceClearNeverCalls := by
  refine fun i s hhyp => ⟨?_, fun imm16 hreach => ?_⟩
  · rintro imm16 ⟨t, ht, hraised⟩
    rcases exec_next_cases ht with ⟨imm16', rfl⟩ | rfl | ⟨_, rfl⟩
    · rw [hvcExecute_of_hypHceClear imm16' hhyp] at hraised
      exact hypHceClearOutcome_raised_ne_call _ s imm16 hraised
    · simp at hraised
    · simp at hraised
  · rw [exec_reaches hreach, hvcExecute_of_hypHceClear imm16 hhyp]
    refine ⟨fun hk => ?_, fun hk => ?_⟩ <;> rw [hk]
    · exact takesUndefined_takeUndefined s
    · exact runsAsNop_executeAsNop s

/-- Settles O23: the test of the IT state is the whole Decode of T1. -/
theorem t1IsRefusedExactlyInAnItBlock : Obligations.T1IsRefusedExactlyInAnItBlock :=
  fun imm4 imm12 _ => ⟨exec_hvcT1_of_inItBlock imm4 imm12, fun hit => ⟨_, exec_hvcT1_outside_itBlock imm4 imm12 hit⟩⟩

/-- Settles O28: well-formedness leaves an absent EL2 not enabled, which the first test catches. -/
theorem undefinedWhereEl2IsNotImplemented : Obligations.UndefinedWhereEl2IsNotImplemented := by
  rintro i imm16 s ⟨hel2, -⟩ hno hreach
  rw [exec_reaches hreach, hvcExecute_of_level imm16 (.inr (.inr (hel2 hno)))]
  exact takesUndefined_takeUndefined s

/-! ## Frames of the outcomes (R68, R72) -/

/-- Settles O29: the one end that raises nothing is the NOP. -/
theorem nopOutcomeChangesOnlyThePc : Obligations.NopOutcomeChangesOnlyThePc :=
  fun _ s _ ht hraised => (exec_ends ht).eq_executeAsNop hraised ▸ executeAsNop_eq s

/-- The Operation raises nothing only in the constrained case, under the draw NOP. -/
theorem hypHceClear_of_hvcExecute_raised_none {imm16 : BitVec 16} {s : State} (h : (hvcExecute imm16 s).raised = none) :
    HypHceClear s ∧ s.draws.hypHce0 = .nop := by
  rcases hvcExecute_cases imm16 s with ⟨_, heq⟩ | ⟨hhyp, heq⟩ | ⟨_, _, heq⟩ | ⟨_, heq⟩ <;> rw [heq] at h
  · simp at h
  · cases hk : s.draws.hypHce0 with
    | undef => simp [hk, hypHceClearOutcome] at h
    | nop => exact ⟨hhyp, rfl⟩
  · simp at h
  · simp at h

/-- Settles O30: a next state comes from the Operation or from a draw of R62. -/
theorem nopOnlyInTheConstrainedCases : Obligations.NopOnlyInTheConstrainedCases := by
  intro i s t ht hraised
  rcases exec_next_cases ht with ⟨imm16, rfl⟩ | rfl | ⟨hcond, _⟩
  · exact .inr (hypHceClear_of_hvcExecute_raised_none hraised)
  · simp at hraised
  · exact .inl hcond

@[simp] theorem takeUndefined_hsr (s : State) : (takeUndefined s).hsr = s.hsr := rfl

/-- Settles O32: of the three ends only the call writes `HSR`, and it raises another event. -/
theorem undefinedLeavesTheSyndrome : Obligations.UndefinedLeavesTheSyndrome := by
  intro i s t ht hraised
  cases exec_ends ht with
  | undefined h => rw [h, takeUndefined_hsr]
  | nop h => rw [h, executeAsNop_hsr]
  | call imm16 h => simp [h] at hraised

/-! ## The table of R71 -/

/-- Four rows of the table are the permitted states. -/
theorem OutcomeRow.callPermitted_iff {s : State} {r : Fin 12} (h : OutcomeRow s r) :
    CallPermitted s ↔ r ∈ ([5, 7, 9, 11] : List (Fin 12)) := by
  fin_cases r <;> simp_all [CallPermitted]

/-- One row of the table is the constrained case. -/
theorem OutcomeRow.hypHceClear_iff {s : State} {r : Fin 12} (h : OutcomeRow s r) : HypHceClear s ↔ r = 3 := by
  fin_cases r <;> simp_all [HypHceClear]

section
variable {i : Instr} {imm16 : BitVec 16} {s : State} (hreach : ReachesOperation i imm16 s) {r : Fin 12}
include hreach

theorem OutcomeRow.takesHypervisorCall (hrow : OutcomeRow s r) (hr : r ∈ ([5, 7, 9, 11] : List (Fin 12))) :
    TakesHypervisorCall (exec i s) imm16 := by
  rw [exec_reaches hreach, hvcExecute_of_callPermitted imm16 (hrow.callPermitted_iff.2 hr)]
  exact takesHypervisorCall_takeHypervisorCall imm16 s

theorem OutcomeRow.takesUndefined (hrow : OutcomeRow s r) (hr : r ∉ ([3, 5, 7, 9, 11] : List (Fin 12))) :
    TakesUndefined (exec i s) := by
  obtain ⟨hne, hcall⟩ := not_or.1 (mt List.mem_cons.2 hr)
  rw [exec_reaches hreach,
    hvcExecute_of_neither imm16 (mt hrow.callPermitted_iff.1 hcall) (mt hrow.hypHceClear_iff.1 hne)]
  exact takesUndefined_takeUndefined s

theorem HypHceClear.takesUndefined_or_runsAsNop (hhyp : HypHceClear s) :
    TakesUndefined (exec i s) ∨ RunsAsNop (exec i s) s := by
  obtain ⟨-, hdraw⟩ := hypModeWithHceClearNeverCalls i s hhyp
  obtain ⟨hundef, hnop⟩ := hdraw imm16 hreach
  cases hk : s.draws.hypHce0 with
  | undef => exact .inl (hundef hk)
  | nop => exact .inr (hnop hk)

end

/-- Settles O16: the rows are told apart by whether the call is permitted and whether the state is the constrained case. -/
theorem outcomeTableRowsHold : Obligations.OutcomeTableRowsHold := by
  intro i imm16 s hreach
  have call {r : Fin 12} (hr : r ∈ ([5, 7, 9, 11] : List (Fin 12))) (hrow : OutcomeRow s r) :=
    hrow.takesHypervisorCall hreach hr
  have undef {r : Fin 12} (hr : r ∉ ([3, 5, 7, 9, 11] : List (Fin 12))) (hrow : OutcomeRow s r) :=
    hrow.takesUndefined hreach hr
  exact ⟨undef (by decide), undef (by decide), undef (by decide), HypHceClear.takesUndefined_or_runsAsNop hreach,
    undef (by decide), call (by decide), undef (by decide), call (by decide), undef (by decide), call (by decide),
    undef (by decide), call (by decide)⟩

/-- The row of the table a state belongs to, read from the table as a chain of tests. -/
def outcomeRowOf (s : State) : Fin 12 :=
  if s.pstate.el = 0b01#2 ∨ s.pstate.el = 0b10#2 then
    if s.el2Enabled = false then 2
    else if s.impl.haveEl3 then
      if s.el3A32 then if s.scrHce = 0#1 then if s.pstate.el = 0b10#2 then 3 else 4 else 5
      else if s.scrEl3Hce = 0#1 then 6 else 7
    else if s.el2A32 then if s.hcrHcd = 1#1 then 8 else 9
    else if s.hcrEl2Hcd = 1#1 then 10 else 11
  else if s.pstate.el = 0b00#2 then 0 else 1

theorem OutcomeRow.eq_outcomeRowOf {s : State} {r : Fin 12} (h : OutcomeRow s r) : r = outcomeRowOf s := by
  fin_cases r <;> simp_all [outcomeRowOf, OutcomeRow]

theorem outcomeRow_outcomeRowOf (s : State) : OutcomeRow s (outcomeRowOf s) := by
  have hel : ∀ e : BitVec 2, ¬ (e = 0b01#2 ∨ e = 0b10#2) → e ≠ 0b00#2 → e = 0b11#2 := by decide
  have hbelow : ∀ e : BitVec 2, e = 0b01#2 ∨ e = 0b10#2 → e ≠ 0b10#2 → e = 0b01#2 := by decide
  have hbit : ∀ b : BitVec 1, (b ≠ 0#1 → b = 1#1) ∧ (b ≠ 1#1 → b = 0#1) := by decide
  unfold outcomeRowOf
  split_ifs <;> simp_all [OutcomeRow]

/-- Settles O17: each state is in the row the chain of tests gives, and in no other. -/
theorem outcomeTableRowsPartition : Obligations.OutcomeTableRowsPartition :=
  fun s => ⟨outcomeRowOf s, outcomeRow_outcomeRowOf s, fun _ h => h.eq_outcomeRowOf⟩

/-! ## What decides the outcome (R65, R69, R86) -/

/-- The 16-bit immediate of an instruction, in the split of its encoding. -/
def immediateOf : Instr → BitVec 16
  | .hvcA1 _ imm12 imm4 => a1Imm16 imm12 imm4
  | .hvcT1 imm4 imm12 => t1Imm16 imm4 imm12

/-- Two HVCs of one encoding and condition: only the immediate may differ. -/
def SameForm (i j : Instr) : Prop :=
  (∃ cond a b a' b', i = .hvcA1 cond a b ∧ j = .hvcA1 cond a' b') ∨ (∃ a b a' b', i = .hvcT1 a b ∧ j = .hvcT1 a' b')

theorem SameForm.refl (i : Instr) : SameForm i i := by
  cases i with
  | hvcA1 cond imm12 imm4 => exact .inl ⟨cond, imm12, imm4, imm12, imm4, rfl, rfl⟩
  | hvcT1 imm4 imm12 => exact .inr ⟨imm4, imm12, imm4, imm12, rfl, rfl⟩

/-- The two states agree in everything the meanings test: the level and the flags, EL2 enabled, the constrained case, the enable
bit, the draws. -/
structure SameTests (s s' : State) : Prop where
  pstate : s'.pstate = s.pstate
  el2Enabled : s'.el2Enabled = s.el2Enabled
  draws : s'.draws = s.draws
  hypHceClear : hypHceClear s' = hypHceClear s
  hvcEnable : hvcEnable s' = hvcEnable s

theorem SameTests.refl (s : State) : SameTests s s := ⟨rfl, rfl, rfl, rfl, rfl⟩

/-- From `s` and from `s'` the same one of the three ends, a call with `imm16` and with `imm16'`. -/
inductive SameEnd (s s' : State) (imm16 imm16' : BitVec 16) : State → State → Prop where
  | undefined : SameEnd s s' imm16 imm16' (takeUndefined s) (takeUndefined s')
  | nop : SameEnd s s' imm16 imm16' (executeAsNop s) (executeAsNop s')
  | call : SameEnd s s' imm16 imm16' (takeHypervisorCall imm16 s) (takeHypervisorCall imm16' s')

section
variable {s s' : State} (h : SameTests s s') (imm16 imm16' : BitVec 16)
include h

theorem SameTests.hvcExecute_sameEnd : SameEnd s s' imm16 imm16' (hvcExecute imm16 s) (hvcExecute imm16' s') := by
  unfold hvcExecute
  rw [h.pstate, h.el2Enabled, h.draws, h.hypHceClear, h.hvcEnable]
  split_ifs
  · exact .undefined
  · cases s.draws.hypHce0 with
    | undef => exact .undefined
    | nop => exact .nop
  · exact .undefined
  · exact .call

theorem SameTests.a1CondCu_sameEnd (k : CuA1Cond) (cond : BitVec 4) :
    SameEnd s s' imm16 imm16' (a1CondCu k cond imm16 s) (a1CondCu k cond imm16' s') := by
  cases k with
  | undef => exact .undefined
  | nop => exact .nop
  | uncond => exact h.hvcExecute_sameEnd imm16 imm16'
  | cond =>
    simp only [a1CondCu, h.pstate]
    split
    · exact h.hvcExecute_sameEnd imm16 imm16'
    · exact .nop

/-- Two HVCs of one form, in states that agree in what is tested, are refused alike or come to the same end. -/
theorem SameTests.exec_sameEnd {i j : Instr} (hform : SameForm i j) :
    (∃ r, exec i s = .refused r ∧ exec j s' = .refused r) ∨
    ∃ t t', exec i s = .next t ∧ exec j s' = .next t' ∧ SameEnd s s' (immediateOf i) (immediateOf j) t t' := by
  rcases hform with ⟨cond, a, b, a', b', rfl, rfl⟩ | ⟨a, b, a', b', rfl, rfl⟩
  · by_cases hnv : cond = 0b1111#4
    · exact .inl ⟨.hvcA1Cond1111, if_pos hnv, if_pos hnv⟩
    by_cases hal : cond = 0b1110#4
    · subst hal
      exact .inr ⟨_, _, exec_hvcA1_al a b s, exec_hvcA1_al a' b' s', h.hvcExecute_sameEnd _ _⟩
    · refine .inr ⟨_, _, exec_hvcA1_conditional a b s hal hnv, exec_hvcA1_conditional a' b' s' hal hnv, ?_⟩
      rw [h.draws]
      exact h.a1CondCu_sameEnd _ _ _ cond
  · cases hit : s.pstate.inItBlock with
    | true =>
      exact .inl ⟨_, exec_hvcT1_of_inItBlock a b hit, exec_hvcT1_of_inItBlock a' b' (h.pstate ▸ hit)⟩
    | false =>
      exact .inr ⟨_, _, exec_hvcT1_outside_itBlock a b hit, exec_hvcT1_outside_itBlock a' b' (h.pstate ▸ hit),
        h.hvcExecute_sameEnd _ _⟩

end

/-- The same end with the same immediate is the same outcome of R60. -/
theorem SameEnd.outcome_iff {s s' t t' : State} {imm16 : BitVec 16} (h : SameEnd s s' imm16 imm16 t t') :
    (∀ v, TakesHypervisorCall (.next t) v ↔ TakesHypervisorCall (.next t') v) ∧
    (TakesUndefined (.next t) ↔ TakesUndefined (.next t')) ∧ (RunsAsNop (.next t) s ↔ RunsAsNop (.next t') s') := by
  have not_nop {s t : State} {ev : Event} (hev : t.raised = some ev) : ¬ RunsAsNop (.next t) s := fun hn => by
    simp [hn.raised_eq_none] at hev
  cases h with
  | undefined => exact ⟨by simp, by simp, iff_of_false (not_nop rfl) (not_nop rfl)⟩
  | nop => exact ⟨by simp, by simp, iff_of_true (runsAsNop_executeAsNop s) (runsAsNop_executeAsNop s')⟩
  | call => exact ⟨by simp, by simp, iff_of_false (not_nop rfl) (not_nop rfl)⟩

theorem SameTests.sameOutcome {s s' : State} (h : SameTests s s') (i : Instr) : SameOutcome i s s' := by
  unfold SameOutcome
  rcases h.exec_sameEnd (.refl i) with ⟨r, hr, hr'⟩ | ⟨t, t', ht, ht', hend⟩
  · simp [hr, hr']
  · rw [ht, ht']
    exact hend.outcome_iff

/-- Settles O25: from one state, two HVCs of one form come to the same end, and only a call depends on the immediate. -/
theorem immediateDoesNotDecideTheOutcome : Obligations.ImmediateDoesNotDecideTheOutcome := by
  intro i j s hform
  rcases (SameTests.refl s).exec_sameEnd hform with ⟨r, hr, hr'⟩ | ⟨t, t', ht, ht', hend⟩
  · simp [hr, hr']
  · refine ⟨fun r hr => by simp [ht] at hr, fun u hu => ?_⟩
    obtain rfl := Host.Outcome.next.inj (ht.symm.trans hu)
    refine ⟨t', ht', ?_⟩
    cases hend with
    | undefined => exact ⟨rfl, fun _ => rfl, fun _ => rfl, by simp⟩
    | nop => exact ⟨rfl, fun _ => rfl, fun _ => rfl, by simp⟩
    | call => exact ⟨rfl, by simp, by simp, fun _ _ => ⟨_, rfl, rfl⟩⟩

/-- Settles O26: the tests of the meanings read none of these controls. -/
theorem unreadControlsDoNotMatter : Obligations.UnreadControlsDoNotMatter := by
  intro i s x y b
  refine ⟨fun h3 => SameTests.sameOutcome ?_ i, fun _ ha32 => SameTests.sameOutcome ?_ i,
    fun _ ha32 => SameTests.sameOutcome ?_ i, fun h3 => SameTests.sameOutcome ?_ i,
    fun h3 ha32 => SameTests.sameOutcome ?_ i, fun h3 ha32 => SameTests.sameOutcome ?_ i⟩
  · exact ⟨rfl, rfl, rfl, rfl, by simp [hvcEnable, scrGenHce, h3]⟩
  · exact ⟨rfl, rfl, rfl, rfl, by simp [hvcEnable, scrGenHce, ha32]⟩
  · exact ⟨rfl, rfl, rfl, by simp [hypHceClear, ha32], by simp [hvcEnable, scrGenHce, ha32]⟩
  · exact ⟨rfl, rfl, rfl, by simp [hypHceClear, h3], by simp [hvcEnable, h3]⟩
  · exact ⟨rfl, rfl, rfl, rfl, by simp [hvcEnable, h3, ha32]⟩
  · exact ⟨rfl, rfl, rfl, rfl, by simp [hvcEnable, h3, ha32]⟩

end Sys2Proof.Machine

namespace Sys2Proof.Machine

/-! ## The Hypervisor Call (60_exceptions.md R74, R75, R87) -/

@[simp] theorem takeHypervisorCall_hsr (imm16 : BitVec 16) (s : State) :
    (takeHypervisorCall imm16 s).hsr = { ec := 0x12#6, imm16 := imm16, other := (hvcEntry s).hsrOther } := rfl

/-- The three ends again, a call only with the immediate of the encoding (30_encoding.md R49, R50). -/
theorem exec_next_ends {i : Instr} {s t : State} (h : exec i s = .next t) :
    t = takeUndefined s ∨ t = executeAsNop s ∨ t = takeHypervisorCall (immediateOf i) s := by
  rcases (SameTests.refl s).exec_sameEnd (.refl i) with ⟨r, hr, _⟩ | ⟨u, _, hu, _, hend⟩
  · simp [hr] at h
  · obtain rfl := Host.Outcome.next.inj (hu.symm.trans h)
    cases hend with
    | undefined => exact .inl rfl
    | nop => exact .inr (.inl rfl)
    | call => exact .inr (.inr rfl)

theorem callPermitted_of_hvcExecute_raised {v imm16 : BitVec 16} {s : State}
    (h : (hvcExecute v s).raised = some (.hypervisorCall imm16)) : CallPermitted s := by
  rcases hvcExecute_cases v s with ⟨_, heq⟩ | ⟨_, heq⟩ | ⟨_, _, heq⟩ | ⟨hcall, _⟩
  · simp [heq] at h
  · exact absurd (heq ▸ h) (hypHceClearOutcome_raised_ne_call _ s imm16)
  · simp [heq] at h
  · exact hcall

/-- Everything known where any form calls: the call was permitted, and it reported the encoding's immediate. -/
theorem exec_call {i : Instr} {s t : State} {imm16 : BitVec 16} (h : exec i s = .next t)
    (hraised : t.raised = some (.hypervisorCall imm16)) :
    CallPermitted s ∧ imm16 = immediateOf i ∧ t = takeHypervisorCall imm16 s := by
  constructor
  · rcases exec_next_cases h with ⟨v, rfl⟩ | rfl | ⟨_, rfl⟩
    · exact callPermitted_of_hvcExecute_raised hraised
    · simp at hraised
    · simp at hraised
  · rcases exec_next_ends h with rfl | rfl | rfl
    · simp at hraised
    · simp at hraised
    · obtain rfl : immediateOf i = imm16 := by simpa using hraised
      exact ⟨rfl, rfl⟩

theorem exec_reaches_of_callPermitted {i : Instr} {imm16 : BitVec 16} {s : State} (hreach : ReachesOperation i imm16 s)
    (hcall : CallPermitted s) : exec i s = .next (takeHypervisorCall imm16 s) := by
  rw [exec_reaches hreach, hvcExecute_of_callPermitted imm16 hcall]

/-- Settles O18: a call of any form was permitted, and in a permitted state the Operation calls. -/
theorem callTakenExactlyWhenPermitted : Obligations.CallTakenExactlyWhenPermitted := by
  intro i imm16 s hreach
  constructor
  · rintro ⟨t, ht, hraised⟩
    exact (exec_call ht hraised).1
  · intro hcall
    rw [exec_reaches_of_callPermitted hreach hcall]
    exact takesHypervisorCall_takeHypervisorCall imm16 s

/-- Settles O19: a step that gives a next state ran an instruction, and no form calls where it is not permitted. -/
theorem onlyPermittedStatesCallTheHypervisor : Obligations.OnlyPermittedStatesCallTheHypervisor := by
  intro s t imm16 hstep hraised
  obtain ⟨_, _, _, _, _, hexec⟩ := step_cases hstep
  obtain ⟨hcall, _, rfl⟩ := exec_call hexec hraised
  exact ⟨hcall, rfl, rfl⟩

/-- Settles O20: a call reports the encoding's immediate, and the two other ends leave `HSR`. -/
theorem syndromeWrittenExactlyByTheCall : Obligations.SyndromeWrittenExactlyByTheCall := by
  refine fun i s t hexec => ⟨fun imm16 hraised => ?_, fun hnocall => ?_⟩
  · obtain ⟨_, himm, rfl⟩ := exec_call hexec hraised
    refine ⟨rfl, rfl, ?_⟩
    cases i with
    | hvcA1 cond imm12 imm4 => exact himm
    | hvcT1 imm4 imm12 => exact himm
  · cases exec_ends hexec with
    | undefined h => rw [h, takeUndefined_hsr]; exact ⟨rfl, rfl⟩
    | nop h => rw [h, executeAsNop_hsr]; exact ⟨rfl, rfl⟩
    | call imm16 h => exact absurd (h ▸ takeHypervisorCall_raised imm16 s) (hnocall imm16)

/-- Settles O27: the first test of the Operation makes these levels UNDEFINED, and no form calls where it is not permitted. -/
theorem noCallFromUserModeOrEl3 : Obligations.NoCallFromUserModeOrEl3 := by
  intro i s hel
  have hlevel : s.pstate.el = Config.el0 ∨ s.pstate.el = Config.el3 ∨ s.el2Enabled = false := hel.imp_right .inl
  constructor
  · intro imm16 hreach
    rw [exec_reaches hreach, hvcExecute_of_level imm16 hlevel]
    exact takesUndefined_takeUndefined s
  · rintro imm16 ⟨t, ht, hraised⟩
    exact not_callPermitted_of_level hlevel (exec_call ht hraised).1

/-! ## The entry of general knowledge (60_exceptions.md R81, R84; log 8) -/

@[simp] theorem takeHypervisorCall_pc (imm16 : BitVec 16) (s : State) :
    (takeHypervisorCall imm16 s).pc = (hvcEntry s).pc := rfl
@[simp] theorem takeHypervisorCall_pstate (imm16 : BitVec 16) (s : State) :
    (takeHypervisorCall imm16 s).pstate = (hvcEntry s).pstate := rfl
@[simp] theorem takeHypervisorCall_elrHyp (imm16 : BitVec 16) (s : State) :
    (takeHypervisorCall imm16 s).elrHyp = (hvcEntry s).elrHyp := rfl
@[simp] theorem takeHypervisorCall_spsrHyp (imm16 : BitVec 16) (s : State) :
    (takeHypervisorCall imm16 s).spsrHyp = (hvcEntry s).spsrHyp := rfl

theorem hvcEntry_of_usual {s : State} (husual : s.impl.usualHvcEntry = true) (ha32 : s.el2A32 = true) :
    hvcEntry s = usualHypEntry s s.draws.entry := by
  simp [hvcEntry, husual, ha32]

/-- `HVBAR[31:5]` with the five offset bits below it is a sum. -/
theorem hypVector_toNat (s : State) :
    (hypVector s).toNat = s.hvbar.toNat / 32 * 32 + (if s.pstate.el = 0b10#2 then 0x08 else 0x14) := by
  have hbase : s.hvbar.toNat / 32 < 2 ^ 27 := by omega
  rw [hypVector, BitVec.toNat_append, Nat.shiftLeft_eq, Nat.mul_comm, ← Nat.two_pow_add_eq_or_of_lt (BitVec.isLt _),
    BitVec.extractLsb'_toNat, Nat.shiftRight_eq_div_pow, Nat.mod_eq_of_lt hbase, Nat.mul_comm]
  split <;> rfl

/-- An exception not routed to EL3 is masked. -/
theorem hypMask_of_not_routed {s : State} {route : BitVec 1} (free : BitVec 1)
    (h : s.impl.haveEl3 = true → route = 0#1) : hypMask s route free = 1#1 := by
  refine if_neg fun hroute => ?_
  obtain ⟨h3, hone⟩ : s.impl.haveEl3 = true ∧ route = 1#1 := by simpa using hroute
  simp [h h3] at hone

/-- Settles O37: a permitted HVC calls, and the entry it takes is the usual one, field by field. -/
theorem usualEntryToHypMode : Obligations.UsualEntryToHypMode := by
  intro i imm16 s hreach hcall husual ha32
  refine ⟨_, exec_reaches_of_callPermitted hreach hcall, ?_⟩
  simp only [takeHypervisorCall_elrHyp, takeHypervisorCall_spsrHyp, takeHypervisorCall_pstate, takeHypervisorCall_pc,
    takeHypervisorCall_hsr, hvcEntry_of_usual husual ha32]
  have hiset : (usualHypEntry s s.draws.entry).pstate.iset = .t32 ↔ s.hsctlrTe = 1#1 := by
    simp [usualHypEntry]
  exact ⟨rfl, rfl, rfl, rfl, hiset, rfl, rfl, hypMask_of_not_routed _, hypMask_of_not_routed _, hypMask_of_not_routed _,
    hypVector_toNat s, rfl⟩

/-- Settles O38: the usual entry saves what the return takes back. -/
theorem returnResumesAfterTheCall : Obligations.ReturnResumesAfterTheCall := by
  intro i imm16 s t hreach hcall husual ha32 hexec
  obtain ⟨u, hu, helr, hspsr, _⟩ := usualEntryToHypMode i imm16 s hreach hcall husual ha32
  obtain rfl := Host.Outcome.next.inj (hu.symm.trans hexec)
  exact ⟨helr, hspsr⟩

end Sys2Proof.Machine

namespace Sys2Proof.Machine

/-! ## The end of a run (70_reset_and_hazards.md R99) -/

/-- Each alignment (4 or 2) divides 4 and `2 ^ 32`, so `pc + 4` keeps it even where it wraps. -/
theorem aligned_add_four {iset : ISet} {pc : Word} (h : aligned iset pc = true) : aligned iset (pc + 4#32) = true := by
  cases iset with
  | a32 =>
    rw [aligned_a32_iff] at h ⊢
    bv_omega
  | t32 =>
    rw [aligned_t32_iff] at h ⊢
    bv_omega

/-- Settles O35: the only end that raises nothing is the NOP, which keeps `PSTATE` and adds 4 to a `pc` that the step found
aligned. -/
theorem runContinuesOnlyAtTheNextInstruction : Obligations.RunContinuesOnlyAtTheNextInstruction := by
  intro s t hstep hgoes
  obtain ⟨_, _, hal, _, _, hexec⟩ := step_cases hstep
  obtain rfl := (exec_ends hexec).eq_executeAsNop (not_not.1 hgoes)
  exact ⟨BitVec.toNat_add s.pc 4#32, executeAsNop_pstate s, aligned_add_four hal⟩

end Sys2Proof.Machine
